-- ==== Sys2Proof/Word.lean ====
section
/-! DEFINITION. The word types of the unit (spec/00_scope.md R6, R7): every value is unsigned, bit 0 the least
significant. -/

namespace Sys2Proof

/-- A 64-bit unsigned value: a bound, an operand, a product half, a threshold, a result (R6, `W`). -/
abbrev Word := BitVec 64

/-- One raw sample of the random source, `rnd_data[63:0]`; every 64-bit value is legal (spec/30_encoding.md R79). -/
abbrev Sample := BitVec 64

/-- One command word, `cmd_data[129:0]` (spec/30_encoding.md R70; R6, `CMDW`). -/
abbrev CommandWord := BitVec 130

/-- One response word, `rsp_data[129:0]` (spec/30_encoding.md R76; R6, `RSPW`). -/
abbrev ResponseWord := BitVec 130

end Sys2Proof
end

