-- ==== Sys2Proof/Syntax.lean ====
section
/-! DEFINITION. The commands of the unit: one constructor per row of spec/opcode_table.json (spec/30_encoding.md R71,
R74). -/

namespace Sys2Proof

/-- A decoded command. Operands are full 64-bit unsigned values, used as they stand (R72); a field the operation does not
use is no part of the term (R73). -/
inductive Instr where
  /-- `GEN b`, op 00: an unbiased random integer below `b` (R140). -/
  | gen (bound : Word)
  /-- `MULW x, y`, op 01: the 128-bit product of `x = opa` and `y = opb` (R106). -/
  | mulw (x y : Word)
  /-- `THRESH b`, op 10: `2^64 mod b` and `2^64 - b` (R128). -/
  | thresh (bound : Word)
  /-- Op 11, reserved; both operand fields are ignored (R74, R182). -/
  | illegal
  deriving DecidableEq, Repr

end Sys2Proof
end

