-- ==== Sys2Proof/WellFormed.lean ====
section
/-! DEFINITION. What may be written down as a command: every `Instr`, and the assembler lines of spec/30_encoding.md
R80 whose numbers fit their fields. -/

namespace Sys2Proof

/-- Every term is well formed: "Every 64-bit value is a legal `opa` and `opb` as far as decoding goes" (R72), and the width
is in the operand's type. -/
def Instr.wellFormed : Instr → Bool
  | .gen _ => true
  | .mulw _ _ => true
  | .thresh _ => true
  | .illegal => true

/-- One line of a program in the notation of R80, its operands as the numbers written. The reserved operation can be
written only as a raw word. -/
inductive Line where
  | gen (bound : Nat)
  | mulw (x y : Nat)
  | thresh (bound : Nat)
  | word (raw : Nat)
  deriving DecidableEq, Repr

/-- "An operand is an unsigned integer below `2^64`" (R80). -/
def operandFits (n : Nat) : Bool := n < 2 ^ 64

/-- A raw word is a 130-bit value (R70, R80). -/
def wordFits (n : Nat) : Bool := n < 2 ^ 130

/-- A line whose numbers fit. -/
def Line.wellFormed : Line → Bool
  | .gen b => operandFits b
  | .mulw x y => operandFits x && operandFits y
  | .thresh b => operandFits b
  | .word n => wordFits n

end Sys2Proof
end

