-- ==== Sys2Proof/Decode.lean ====
section
/-! DEFINITION. The decoder of command words, total on the 130-bit words, and after it the encoder (spec/30_encoding.md
R70 to R74, R81). There are no bytes and no byte order (spec/20_memory.md R52): a command is one word. -/

namespace Sys2Proof

/-- `op`, bits 129:128 (R70). -/
def commandOp (w : CommandWord) : BitVec 2 := w.extractLsb' 128 2

/-- `opb`, bits 127:64 (R70). -/
def commandOpb (w : CommandWord) : Word := w.extractLsb' 64 64

/-- `opa`, bits 63:0 (R70). -/
def commandOpa (w : CommandWord) : Word := w.extractLsb' 0 64

/-- `CMD = {op, opb, opa}`, the first named the most significant (R70; spec/00_scope.md R7). -/
def commandWord (op : BitVec 2) (opb opa : Word) : CommandWord := op ++ opb ++ opa

/-- "every 130-bit word decodes to exactly one of `GEN opa`, `MULW opa opb`, `THRESH opa`, `Illegal`" (R74); `op` alone
selects (R71) and unused fields are ignored (R73). -/
def decode (w : CommandWord) : Instr :=
  if commandOp w = 0b00#2 then .gen (commandOpa w)
  else if commandOp w = 0b01#2 then .mulw (commandOpa w) (commandOpb w)
  else if commandOp w = 0b10#2 then .thresh (commandOpa w)
  else .illegal

/-- Why a number is not a command. -/
inductive DecodeReject where
  /-- It has a bit above bit 129: "the length never varies" from 130 bits (R70). Safe: no port can carry it. -/
  | widerThanOneCommand
  deriving DecidableEq, Repr

/-- The decoder on any number. -/
def decodeNat (n : Nat) : Except DecodeReject Instr :=
  if wordFits n then .ok (decode (BitVec.ofNat 130 n)) else .error .widerThanOneCommand

/-- The `op` value of each operation (R71). -/
def opcode : Instr → BitVec 2
  | .gen _ => 0b00
  | .mulw _ _ => 0b01
  | .thresh _ => 0b10
  | .illegal => 0b11

/-- The canonical word of a command: unused fields zero (R73, R81). -/
def encode : Instr → CommandWord
  | .gen b => commandWord (opcode (.gen b)) 0 b
  | .mulw x y => commandWord (opcode (.mulw x y)) y x
  | .thresh b => commandWord (opcode (.thresh b)) 0 b
  | .illegal => commandWord (opcode .illegal) 0 0

/-- "The canonical encoding ... has an unused field all zero" (R73). -/
def canonical (w : CommandWord) : Bool :=
  if commandOp w = 0b01#2 then true
  else if commandOp w = 0b11#2 then commandOpb w = 0 && commandOpa w = 0
  else commandOpb w = 0

/-- The word of an assembler line (R80, R81); none for a line whose numbers do not fit. -/
def Line.encode (l : Line) : Option CommandWord :=
  if l.wellFormed then
    some (match l with
      | .gen b => Sys2Proof.encode (.gen (BitVec.ofNat 64 b))
      | .mulw x y => Sys2Proof.encode (.mulw (BitVec.ofNat 64 x) (BitVec.ofNat 64 y))
      | .thresh b => Sys2Proof.encode (.thresh (BitVec.ofNat 64 b))
      | .word n => BitVec.ofNat 130 n)
  else none

/-- The host's question: what the decoder reads from the lowest `nbits` bits of `w`, all higher bits zero (log 7). -/
def decodeTableWord (nbits w : Nat) : Option Instr :=
  match decodeNat (w % 2 ^ nbits) with
  | .ok i => some i
  | .error _ => none

end Sys2Proof
end

