-- ==== Sys2Proof/Config.lean ====
section
/-! DEFINITION. What the spec leaves open and a model may not fix. -/

namespace Sys2Proof

/-- The value of `thr(0)`, a remainder by zero: "It is not defined at `b = 0` and the hardware never evaluates it
there" (spec/41_modular_threshold.md R122, R125; spec/93_implementation_defined.md U4). A free value without a body, so
nothing can be proved of it (log 5). -/
opaque Config.thrAtZero : Word

end Sys2Proof
end

