-- ==== Sys2Proof/Machine/Arith.lean ====
section
/-! DEFINITION. The pure functions of the blocks WMUL and MTU (spec/40_widening_multiplier.md R100 to R103,
spec/41_modular_threshold.md R120, R122), computed on natural numbers and narrowed where the rule narrows
(spec/00_scope.md R8). -/

namespace Sys2Proof.Machine

/-- `trunc64(r) = r mod 2^64`, for any natural `r` (R8, R102). -/
def trunc64 (r : Nat) : Word := BitVec.ofNat 64 (r % 2 ^ 64)

/-- The two halves of a 128-bit product (R52, R100). -/
structure Product where
  high : Word
  low : Word
  deriving DecidableEq, Repr

/-- `wmul(x, y)`: the exact product, `low = p mod 2^64`, `high = p div 2^64` (R100). -/
def wmul (x y : Word) : Product :=
  { high := BitVec.ofNat 64 (x.toNat * y.toNat / 2 ^ 64), low := trunc64 (x.toNat * y.toNat) }

/-- `neg64(x) = (2^64 - x) mod 2^64` (R120). -/
def neg64 (x : Word) : Word := BitVec.ofNat 64 ((2 ^ 64 - x.toNat) % 2 ^ 64)

/-- `thr(b) = neg64(b) mod b` for `b ≠ 0` (R122); by `neg64_value` and `sub_mod_self_eq` its three forms agree (R123). At zero it has no value in the spec: a free one here (R125, log 5). -/
def thr (b : Word) : Word :=
  if b = 0 then Config.thrAtZero else BitVec.ofNat 64 ((neg64 b).toNat % b.toNat)

/-- The step from the first to the second form of the threshold: `neg64(b)` is `2^64 - b` at `b ≠ 0` (R123, R120). -/
theorem neg64_value {b : Word} (h : b ≠ 0) : (neg64 b).toNat = 2 ^ 64 - b.toNat := by
  have hp : b.toNat ≠ 0 := fun h0 => h (BitVec.eq_of_toNat_eq (by simpa using h0))
  have hm : (2 ^ 64 - b.toNat) % 2 ^ 64 = 2 ^ 64 - b.toNat := Nat.mod_eq_of_lt (by omega)
  simp only [neg64, BitVec.toNat_ofNat, hm]

/-- The step from the second to the third form, the "conceptual modulo reduction": `m - b` and `m` differ by `b` (R123). -/
theorem sub_mod_self_eq {m b : Nat} (h : b ≤ m) : (m - b) % b = m % b := by
  rw [← Nat.add_mod_right (m - b) b, Nat.sub_add_cancel h]

end Sys2Proof.Machine
end

