-- ==== Sys2Proof/Machine/Response.lean ====
section
/-! DEFINITION. Response words (spec/30_encoding.md R76, R77, R82) and the causes of errors (spec/60_exceptions.md
R180). -/

namespace Sys2Proof.Machine

/-- `RSP = {status, r1, r0}` (R76). -/
def packResponse (status : BitVec 2) (r1 r0 : Word) : ResponseWord := status ++ r1 ++ r0

/-- `status`, bits 129:128 (R76). -/
def statusOf (w : ResponseWord) : BitVec 2 := w.extractLsb' 128 2

/-- `r1`, bits 127:64 (R76). -/
def r1Of (w : ResponseWord) : Word := w.extractLsb' 64 64

/-- `r0`, bits 63:0 (R76). -/
def r0Of (w : ResponseWord) : Word := w.extractLsb' 0 64

/-- The outcomes a response can report; code 3 is reserved and never produced (R77). -/
inductive Status where
  | ok
  | invalidBound
  | illegalOp
  deriving DecidableEq, Repr

/-- The status codes (R77). -/
def Status.code : Status → BitVec 2
  | .ok => 0b00
  | .invalidBound => 0b01
  | .illegalOp => 0b10

/-- The two causes of an error; "There is no third" (R180). -/
inductive Cause where
  | invalidBound
  | illegalOp
  deriving DecidableEq, Repr

/-- The status that reports a cause (R180). -/
def Cause.status : Cause → Status
  | .invalidBound => .invalidBound
  | .illegalOp => .illegalOp

/-- The response word of an outcome and its two result words (R78, R82). -/
def responseWord (o : Status) (r1 r0 : Word) : ResponseWord := packResponse o.code r1 r0

/-- A response as its reader sees it. -/
structure Response where
  status : Status
  r1 : Word
  r0 : Word
  deriving DecidableEq, Repr

/-- Reading a response word; a word with status 3 "is hardware that is not this hardware" (R77; U7): none. -/
def readResponse (w : ResponseWord) : Option Response :=
  if statusOf w = 0b00#2 then some ⟨.ok, r1Of w, r0Of w⟩
  else if statusOf w = 0b01#2 then some ⟨.invalidBound, r1Of w, r0Of w⟩
  else if statusOf w = 0b10#2 then some ⟨.illegalOp, r1Of w, r0Of w⟩
  else none

end Sys2Proof.Machine
end

