-- ==== Sys2Proof/Machine/State.lean ====
section
/-! DEFINITION. The state of one unit (spec/10_state.md R20), what the outside world will do at the clock edges to come
(spec/20_memory.md R51), and the state right after reset (R35). -/

namespace Sys2Proof.Machine

/-- `ST`, the control state (R21). Its two-bit encoding is not observable, so it is an enumeration (log 11). -/
inductive Control where
  /-- No operation in progress; a command may be accepted. -/
  | idle
  /-- A `GEN` with nonzero bound is in progress and needs a sample. -/
  | sampling
  /-- An operation ended with a result; `RSP` is on offer. -/
  | done
  /-- An operation ended with an error; `RSP` is on offer. -/
  | failed
  deriving DecidableEq, Repr

/-- The input signals at one rising edge of `clk` (R51), and whether the unit is still computing there (log 2, log 4). -/
structure Edge where
  /-- `rst` (R210). -/
  rst : Bool
  /-- `cmd_valid` and `cmd_data`: the command word the host offers, if any. -/
  cmd : Option CommandWord
  /-- `rnd_valid` and `rnd_data`: the sample the source offers, if any (R55, R190). -/
  rnd : Option Sample
  /-- `rsp_ready`: the host would take a response. -/
  rspReady : Bool
  /-- The unit has not yet brought up the output of its control state: the open latency `LAT` (spec/00_scope.md R6;
  R217). -/
  stall : Bool
  deriving DecidableEq, Repr

/-- The whole state. The first seven fields are the unit's own, "exactly this state, and no other" (R20); the last three
are the model's. -/
structure State where
  /-- `ST` (R21). -/
  st : Control
  /-- `BOUND` (R22). -/
  bound : Word
  /-- `HI` (R23). -/
  hi : Word
  /-- `LO` (R23). -/
  lo : Word
  /-- `THR` (R24). -/
  thr : Word
  /-- `THRV` (R24). -/
  thrv : Bool
  /-- `RSP` (R25). -/
  rsp : ResponseWord
  /-- Model's own: the output of the present control state has been up at an earlier edge and is kept up until its
  transfer (R217, log 4). -/
  raised : Bool
  /-- Model's own: the clock edges to come (log 2). -/
  inputs : List Edge
  /-- Model's own: the response words the host has taken, oldest first (R148, log 3). -/
  received : List ResponseWord
  deriving DecidableEq, Repr

/-- The reasons a step can stop with a fault: none. Both errors of the unit are answered in a response word and the unit
goes on (spec/60_exceptions.md R180, R183). -/
inductive Fault where
  deriving DecidableEq, Repr

/-- The reasons a step can be refused. -/
inductive Refusal where
  /-- An arm of `exec` without a meaning; no arm raises it. Safe: it only stops. -/
  | notModelled (mnemonic : String)
  deriving DecidableEq, Repr

/-- What a step answers. -/
abbrev Result := Host.Outcome State Fault Refusal

/-- Right after reset (R35): `ST = Idle`, `THRV = 0`. `BOUND`, `HI`, `LO`, `THR`, `RSP` are unspecified there; zero is the
model's choice (log 1). Nothing is offered (log 2), nothing has been received (log 3), no output is up (R210). -/
def State.reset : State where
  st := .idle
  bound := 0
  hi := 0
  lo := 0
  thr := 0
  thrv := false
  rsp := 0
  raised := false
  inputs := []
  received := []

end Sys2Proof.Machine
end

