-- ==== Sys2Proof/Machine/Ops.lean ====
section
/-! DEFINITION. The named operations on the state: register writes, ending an operation with a result or with an error,
handing the response over, reset, and the signals and transfers of the three ports. -/

namespace Sys2Proof.Machine

/-- `BOUND <- b; THRV <- 0; ST <- Sampling` (spec/42_rejection_sampler.md R142). -/
def State.startSampling (s : State) (b : Word) : State :=
  { s with bound := b, thrv := false, st := .sampling }

/-- `HI <- h; LO <- l` (R143; spec/10_state.md R23). -/
def State.setProduct (s : State) (p : Product) : State :=
  { s with hi := p.high, lo := p.low }

/-- `THR <- t; THRV <- 1` (R145). -/
def State.setThreshold (s : State) (t : Word) : State :=
  { s with thr := t, thrv := true }

/-- `Respond(0, r1, r0)` with `ST <- Done` (R147; spec/10_state.md R25). -/
def State.finish (s : State) (r1 r0 : Word) : State :=
  { s with rsp := responseWord .ok r1 r0, st := .done }

/-- `raise E`: `RSP <- {code, 0, 0}`, `ST <- Failed`, "and nothing else. No state is saved" (spec/60_exceptions.md
R183; log 9). -/
def State.raiseError (s : State) (c : Cause) : State :=
  { s with rsp := responseWord c.status 0 0, st := .failed }

/-- `respond`: the host receives `RSP`, `ST <- Idle`, "No other state changes" (R148); also the return from an error
(spec/60_exceptions.md R186). -/
def State.respond (s : State) : State :=
  { s with received := s.received ++ [s.rsp], st := .idle }

/-- `reset`: `ST <- Idle`, `THRV <- 0`, "no other register is written", and the unit's outputs drop
(spec/70_reset_and_hazards.md R210, R214). -/
def State.resetEvent (s : State) : State :=
  { s with st := .idle, thrv := false, raised := false }

/-- The unit lowers its output after a transfer (R217). -/
def State.lowerOutput (s : State) : State :=
  { s with raised := false }

/-- The state in which the next edge acts: the edge is no longer to come (log 2). -/
def State.dropEdge (s : State) (rest : List Edge) : State :=
  { s with inputs := rest }

/-- A command is taken only in `Idle` (spec/20_memory.md R51). In any other state it "is simply not transferred and
waits" (spec/70_reset_and_hazards.md R218): nothing changes. -/
def whenIdle (s : State) (accepted : Result) : Result :=
  if s.st = .idle then accepted else .next s

/-- The unit drives the output of its control state at edge `e`, whatever the other side offers there (R214): not under `rst` (R210), and either it is up since an
earlier edge or the unit has finished computing (R217). -/
def State.outputUp (s : State) (e : Edge) : Bool := !e.rst && (s.raised || !e.stall)

/-- `cmd_ready` (R51). -/
def State.cmdReady (s : State) (e : Edge) : Bool := s.outputUp e && s.st == .idle

/-- `rnd_ready` (R51, R58). -/
def State.rndReady (s : State) (e : Edge) : Bool := s.outputUp e && s.st == .sampling

/-- `rsp_valid`; the word beside it is `rsp_data = RSP` (R51). -/
def State.rspValid (s : State) (e : Edge) : Bool := s.outputUp e && (s.st == .done || s.st == .failed)

/-- The command transferred at the edge, if one is: `cmd_valid` and `cmd_ready` both 1 (R51). -/
def State.cmdTransfer (s : State) (e : Edge) : Option CommandWord :=
  if s.cmdReady e then e.cmd else none

/-- The sample transferred at the edge, if one is: `Draw()` (R51, R55). -/
def State.rndTransfer (s : State) (e : Edge) : Option Sample :=
  if s.rndReady e then e.rnd else none

/-- Whether a response is transferred at the edge (R51). -/
def State.rspTransfer (s : State) (e : Edge) : Bool := s.rspValid e && e.rspReady

/-- An edge without transfer or reset: an output that is up is kept up (R217); nothing else changes. -/
def State.waitEdge (s : State) (e : Edge) : State :=
  { s with raised := s.outputUp e }

end Sys2Proof.Machine
end

