-- ==== Sys2Proof/Machine/Multiplier.lean ====
section
/-! DEFINITION. `MULW` (spec/40_widening_multiplier.md R106). -/

namespace Sys2Proof.Machine

/-- `accept` of `MULW x, y`: `r1` the high half, `r0` the low half; no error, no sample (R106). -/
def execMulw (x y : Word) (s : State) : Result :=
  whenIdle s (.next (s.finish (wmul x y).high (wmul x y).low))

end Sys2Proof.Machine
end

