-- ==== Sys2Proof/Machine/Reserved.lean ====
section
/-! DEFINITION. The reserved operation, op 11 (spec/60_exceptions.md R182). -/

namespace Sys2Proof.Machine

/-- `accept` of a command with `op = 11`: `raise IllegalOp`, operand fields ignored (R182). -/
def execIllegal (s : State) : Result :=
  whenIdle s (.next (s.raiseError .illegalOp))

end Sys2Proof.Machine
end

