-- ==== Sys2Proof/Machine/Flags.lean ====
section
/-! DEFINITION. The unit has no flags (spec/10_state.md R27). These are the two comparisons of one `draw` step, evaluated
and used inside it and not kept; both are unsigned (spec/42_rejection_sampler.md R143). -/

namespace Sys2Proof.Machine

/-- `LO ≥ BOUND`, the test of the fast path (R144). -/
def passesBound (low bound : Word) : Bool := bound.toNat ≤ low.toNat

/-- `LO ≥ THR`, the test of the slow path and of every later sample (R145, R146). -/
def passesThreshold (low threshold : Word) : Bool := threshold.toNat ≤ low.toNat

end Sys2Proof.Machine
end

