-- ==== Sys2Proof/Machine/Operands.lean ====
section
/-! DEFINITION. The one check on an operand (spec/60_exceptions.md R181). Operands have no other form: each is a full
64-bit value of the command word, used as it stands (spec/30_encoding.md R72). -/

namespace Sys2Proof.Machine

/-- A bound operand is valid when it is not zero: "No nonzero bound raises it, however large or small" (R181). -/
def boundValid (bound : Word) : Bool := bound ≠ 0

end Sys2Proof.Machine
end

