-- ==== Sys2Proof/Machine/Sampler.lean ====
section
/-! DEFINITION. The rejection sampler: `GEN` (its `accept` step) and the `draw` step
(spec/42_rejection_sampler.md R142, R143). -/

namespace Sys2Proof.Machine

/-- `accept` of `GEN b` (R142): a zero bound raises `InvalidBound` before any draw (R160); a nonzero one starts
sampling. -/
def execGen (bound : Word) (s : State) : Result :=
  whenIdle s (.next (if boundValid bound then s.startSampling bound else s.raiseError .invalidBound))

/-- A first sample that did not pass the fast path: compute the threshold, once, and test the same sample (R145). -/
def slowPath (p : Product) (s : State) : State :=
  let t := thr s.bound
  if passesThreshold p.low t then (s.setThreshold t).finish 0 p.high else s.setThreshold t

/-- The step `draw` with sample `x` (R143): the product, then for a first sample the test against `BOUND` (R144, R145),
for a later one the test against `THR` (R146); a sample that passes ends the operation (R147). -/
def draw (x : Sample) (s : State) : State :=
  let p := wmul x s.bound
  let s1 := s.setProduct p
  if s.thrv then
    if passesThreshold p.low s.thr then s1.finish 0 p.high else s1
  else if passesBound p.low s.bound then s1.finish 0 p.high
  else slowPath p s1

end Sys2Proof.Machine
end

