-- ==== Sys2Proof/Machine/Threshold.lean ====
section
/-! DEFINITION. `THRESH` (spec/41_modular_threshold.md R128). -/

namespace Sys2Proof.Machine

/-- `accept` of `THRESH b`: `r1 = neg64(b)`, `r0 = thr(b)`; a zero bound raises `InvalidBound` (R128). -/
def execThresh (bound : Word) (s : State) : Result :=
  whenIdle s (.next (if boundValid bound then s.finish (neg64 bound) (thr bound) else s.raiseError .invalidBound))

end Sys2Proof.Machine
end

