-- ==== Sys2Proof/Machine/Dispatch.lean ====
section
/-! DEFINITION. The meaning of each command: its `accept` step (spec/00_scope.md R10, log 8). -/

namespace Sys2Proof.Machine

def exec (i : Instr) (s : State) : Host.Outcome State Fault Refusal :=
  match i with
  | .gen bound => Sys2Proof.Machine.execGen bound s
  | .mulw x y => Sys2Proof.Machine.execMulw x y s
  | .thresh bound => Sys2Proof.Machine.execThresh bound s
  | .illegal => Sys2Proof.Machine.execIllegal s

end Sys2Proof.Machine
end

