-- ==== Sys2Proof/Machine/Clock.lean ====
section
/-! DEFINITION. What happens at one clock edge (spec/42_rejection_sampler.md R149; spec/20_memory.md R51), and where the
command of an edge comes from. -/

namespace Sys2Proof.Machine

/-- One clock edge. `reset` has priority over everything (spec/60_exceptions.md R188); otherwise the one transfer that
takes place, if any, makes its step; an edge without transfer changes no register (spec/20_memory.md R55). -/
def clockEdge (e : Edge) (s : State) : Result :=
  if e.rst then .next s.resetEvent
  else match s.cmdTransfer e with
    | some w => exec (decode w) s.lowerOutput
    | none => match s.rndTransfer e with
      | some x => .next (draw x s.lowerOutput)
      | none => if s.rspTransfer e then .next s.lowerOutput.respond else .next (s.waitEdge e)

/-- The next edge of the input script. After its last edge nothing is offered and nothing happens: the unit waits
(spec/60_exceptions.md R190, R197; spec/70_reset_and_hazards.md R219; log 2). -/
def nextEdge (s : State) : Result :=
  match s.inputs with
  | [] => .next s
  | e :: rest => clockEdge e (s.dropEdge rest)

/-- An edge at which nothing is offered. -/
def Edge.quiet : Edge where
  rst := false
  cmd := none
  rnd := none
  rspReady := false
  stall := false

/-- An edge at which the host offers a command word. -/
def Edge.offerCommand (w : CommandWord) : Edge := { Edge.quiet with cmd := some w }

/-- An edge at which the source offers a sample. -/
def Edge.offerSample (x : Sample) : Edge := { Edge.quiet with rnd := some x }

/-- An edge at which the host would take a response. -/
def Edge.takeResponse : Edge := { Edge.quiet with rspReady := true }

/-- An edge with `rst = 1`. -/
def Edge.reset : Edge := { Edge.quiet with rst := true }

/-- The unit in `Idle`, and at the next edge the host offers the command word of the lowest `nbits` bits of `w`. -/
def offerNext (s : State) (nbits w : Nat) : State :=
  { s with
    st := .idle
    inputs := Edge.offerCommand (BitVec.ofNat 130 (w % 2 ^ nbits)) :: s.inputs }

end Sys2Proof.Machine
end

