-- ==== Sys2Proof/Machine/Step.lean ====
section
/-! DEFINITION. One step of the machine: one clock edge (spec/00_scope.md R10; log 2). -/

namespace Sys2Proof.Machine

/-- One clock edge of the input script. -/
def step (s : State) : Host.Outcome State Fault Refusal := nextEdge s

/-- `s` ready to accept a command, with the command offered at the very next edge (log 6). -/
def State.withFetchWord (s : State) (nbits w : Nat) : State := offerNext s nbits w

end Sys2Proof.Machine
end

