-- ==== Sys2Proof/Safety.lean ====
section
/-! DEFINITION. The terms claims are stated in: legal states (spec/10_state.md R37), the algorithm as a function of a
sample sequence, independent of the machine (spec/42_rejection_sampler.md R141), and the acceptance condition (R154). -/

namespace Sys2Proof.Machine

/-- The laws R37 (a) to (d) of every reachable state, and (the last) that no response the host has taken bears the
reserved status 3 (spec/30_encoding.md R77). -/
structure State.Legal (s : State) : Prop where
  /-- R37 (a). -/
  sampling_bound : s.st = .sampling → s.bound ≠ 0
  /-- R37 (b), first half. -/
  sampling_thr : s.st = .sampling → s.thrv = true → s.thr.toNat = 2 ^ 64 % s.bound.toNat
  /-- R37 (b), second half: the last sample was rejected. -/
  sampling_lo : s.st = .sampling → s.thrv = true → s.lo.toNat < s.thr.toNat
  /-- R37 (c). -/
  done_ok : s.st = .done → statusOf s.rsp = 0
  /-- R37 (d). -/
  failed_error : s.st = .failed →
    (statusOf s.rsp = 1 ∨ statusOf s.rsp = 2) ∧ r1Of s.rsp = 0 ∧ r0Of s.rsp = 0
  /-- R77. -/
  received_status : ∀ w ∈ s.received, statusOf w ≠ 3

/-- Steps 6 and 7 of the algorithm after a rejected sample: draw until `low ≥ t`, return `high` and the samples left; none
when the samples end first (R141, R146). -/
def redraw (b t : Nat) : List Sample → Option (Nat × List Sample)
  | [] => none
  | x :: rest =>
    if t ≤ x.toNat * b % 2 ^ 64 then some (x.toNat * b / 2 ^ 64, rest) else redraw b t rest

/-- `generate(b)` for `b ≠ 0` on a sequence of samples: the result and the samples left, or none when the samples end
before one is accepted (R141). -/
def generate (b : Nat) : List Sample → Option (Nat × List Sample)
  | [] => none
  | x :: rest =>
    if b ≤ x.toNat * b % 2 ^ 64 then some (x.toNat * b / 2 ^ 64, rest)
    else if 2 ^ 64 % b ≤ x.toNat * b % 2 ^ 64 then some (x.toNat * b / 2 ^ 64, rest)
    else redraw b (2 ^ 64 % b) rest

/-- The high half of the product of a sample and a bound (R100). -/
def highOf (b : Nat) (x : Sample) : Nat := x.toNat * b / 2 ^ 64

/-- The low half of the product of a sample and a bound (R100). -/
def lowOf (b : Nat) (x : Sample) : Nat := x.toNat * b % 2 ^ 64

/-- `s` is accepted: `low(s·b) ≥ 2^64 mod b` (R154). -/
def accepts (b : Nat) (x : Sample) : Bool := 2 ^ 64 % b ≤ lowOf b x

/-- The signed reading of a 64-bit pattern, `sgn` (spec/41_modular_threshold.md R121). -/
def sgn (x : Word) : Int := if x.toNat < 2 ^ 63 then x.toNat else (x.toNat : Int) - 2 ^ 64

/-- The same to the outside world: the same control state and output (so the same `ready` and `valid` signals), the same
edges still to come, the same responses given (spec/70_reset_and_hazards.md R226). -/
def State.samePorts (s t : State) : Prop :=
  s.st = t.st ∧ s.raised = t.raised ∧ s.inputs = t.inputs ∧ s.received = t.received

/-- Two states that agree in all but `inputs` and `raised`: the seven registers of R20 and the responses given. -/
def State.sameUnit (s t : State) : Prop :=
  s.st = t.st ∧ s.bound = t.bound ∧ s.hi = t.hi ∧ s.lo = t.lo ∧ s.thr = t.thr ∧ s.thrv = t.thrv ∧ s.rsp = t.rsp ∧
    s.received = t.received

/-- At edge `e` there is no reset, and the port that the control state serves is offered nothing: no command in `Idle`, no
sample in `Sampling`, no `rsp_ready` in `Done` or `Failed` (spec/20_memory.md R51). -/
def State.notOffered (s : State) (e : Edge) : Prop :=
  e.rst = false ∧ (s.st = .idle → e.cmd = none) ∧ (s.st = .sampling → e.rnd = none) ∧
    (s.st = .done ∨ s.st = .failed → e.rspReady = false)

/-- At edge `e` there is no reset and the unit is still computing: it stalls, and its output is not yet up (log 4). Host and
source may hold words on offer (spec/70_reset_and_hazards.md R214). -/
def State.stillComputing (s : State) (e : Edge) : Prop := e.rst = false ∧ e.stall = true ∧ s.raised = false

/-- `Stretched t fast`: the edges `t` has to come are those of `fast`, none of which stalls, at later clock edges: each kept
edge meets a unit whose output is up (or resets it), stalled or not; between them stand edges at which the unit is still
computing, whatever is on offer, or is offered nothing (spec/70_reset_and_hazards.md R222). -/
inductive Stretched : State → List Edge → Prop where
  | nil (t : State) (hi : t.inputs = []) : Stretched t []
  | keep (t t' : State) (e : Edge) (late : Bool) (fast slow : List Edge) (hi : t.inputs = { e with stall := late } :: slow)
      (he : e.stall = false) (hu : e.rst = true ∨ t.raised = true ∨ late = false) (hs : step t = .next t')
      (h : Stretched t' fast) : Stretched t (e :: fast)
  | hold (t t' : State) (e : Edge) (fast slow : List Edge) (hi : t.inputs = e :: slow) (he : t.stillComputing e)
      (hs : step t = .next t') (h : Stretched t' fast) : Stretched t fast
  | gap (t t' : State) (e : Edge) (fast slow : List Edge) (hi : t.inputs = e :: slow) (he : t.notOffered e)
      (hs : step t = .next t') (h : Stretched t' fast) : Stretched t fast

end Sys2Proof.Machine
end

