-- ==== Sys2Proof/Certificates/Slice0/Obligations.lean ====
section
/-! DEFINITION. The statements for the provers. In all of them `s.inputs = e :: rest` names the next clock edge `e`, and a
port's transfer at it is `s.cmdTransfer e`, `s.rndTransfer e` or `s.rspTransfer e` (spec/20_memory.md R51). -/

open Sys2Proof Sys2Proof.Machine

/-- R35: right after reset `ST = Idle` and `THRV = 0`. Of the registers the rule leaves unspecified nothing is said. -/
def Obligations.ResetStateIsIdle : Prop :=
  State.reset.st = .idle ∧ State.reset.thrv = false

/-- R210, whole: the reset event in any state, the outputs under `rst`, and that a command can be accepted afterwards. The
two model's own fields say that the edge is used up and that outputs drop. -/
def Obligations.ResetEventReturnsToIdle : Prop :=
  ∀ (s : State) (e : Edge) (rest : List Edge), s.inputs = e :: rest → e.rst = true →
    (s.cmdReady e = false ∧ s.rndReady e = false ∧ s.rspValid e = false) ∧
    step s = .next { s with st := .idle, thrv := false, raised := false, inputs := rest } ∧
    ∀ (f : Edge), f.rst = false → f.stall = false →
      ({ s with st := .idle, thrv := false, raised := false, inputs := rest } : State).cmdReady f = true

/-- R61, R71: the word on `cmd_data` at the edge of its transfer is decoded, and its operation runs. -/
def Obligations.StepRunsDecodedCommand : Prop :=
  ∀ (s : State) (e : Edge) (rest : List Edge) (w : CommandWord), s.inputs = e :: rest → s.cmdTransfer e = some w →
    (decode w).wellFormed = true ∧
    step s = exec (decode w) { s with inputs := rest, raised := false }

/-- When a command, a sample or a response is transferred (R51): in the control state that serves the port, without `rst`,
with the other side's offer, and the unit's output up (that the output may be late is the model's `stall`, log 4). -/
def Obligations.CommandTransferCondition : Prop :=
  ∀ (s : State) (e : Edge),
    (∀ w : CommandWord, s.cmdTransfer e = some w ↔
      s.st = .idle ∧ e.rst = false ∧ (s.raised = true ∨ e.stall = false) ∧ e.cmd = some w) ∧
    (∀ x : Sample, s.rndTransfer e = some x ↔
      s.st = .sampling ∧ e.rst = false ∧ (s.raised = true ∨ e.stall = false) ∧ e.rnd = some x) ∧
    (s.rspTransfer e = true ↔
      (s.st = .done ∨ s.st = .failed) ∧ e.rst = false ∧ (s.raised = true ∨ e.stall = false) ∧ e.rspReady = true)

/-- R106 with R100: `MULW` completes in `Idle` for every operand pair, writes `RSP` and `ST` only, and `{r1, r0}` is the
exact product, `r1` its high half. -/
def Obligations.MulwCompletes : Prop :=
  ∀ (s : State) (x y : Word), s.st = .idle →
    ∃ w : ResponseWord, exec (.mulw x y) s = .next { s with rsp := w, st := .done } ∧
      statusOf w = 0 ∧ (r1Of w).toNat = x.toNat * y.toNat / 2 ^ 64 ∧ (r0Of w).toNat = x.toNat * y.toNat % 2 ^ 64

/-- R128: `THRESH b` with a nonzero bound completes in `Idle`, writes `RSP` and `ST` only. -/
def Obligations.ThreshCompletes : Prop :=
  ∀ (s : State) (b : Word), s.st = .idle → b ≠ 0 →
    ∃ w : ResponseWord, exec (.thresh b) s = .next { s with rsp := w, st := .done } ∧
      statusOf w = 0 ∧ (r1Of w).toNat = 2 ^ 64 - b.toNat ∧ (r0Of w).toNat = 2 ^ 64 % b.toNat

/-- R142, whole: `accept` of `GEN b`. A nonzero bound writes `BOUND`, `THRV` and `ST` only (so not `HI`, `LO`, `THR`, `RSP`);
a zero bound raises `InvalidBound`, `RSP` and `ST` only, and `ST` is not `Sampling`. -/
def Obligations.GenAcceptStep : Prop :=
  ∀ (s : State) (b : Word), s.st = .idle →
    (b ≠ 0 → exec (.gen b) s = .next { s with bound := b, thrv := false, st := .sampling }) ∧
    (b = 0 → ∃ w : ResponseWord, exec (.gen b) s = .next { s with rsp := w, st := .failed } ∧
      statusOf w = 1 ∧ r1Of w = 0 ∧ r0Of w = 0)

/-- R183, whole, for each command that raises an error: `RSP <- {code, 0, 0}`, `ST <- Failed`, and nothing else (for the
zero data words see log 9). -/
def Obligations.ErrorEntryWritesResponseOnly : Prop :=
  ∀ s : State, s.st = .idle →
    (∃ w : ResponseWord, exec (.gen 0) s = .next { s with rsp := w, st := .failed } ∧
      exec (.thresh 0) s = .next { s with rsp := w, st := .failed } ∧
      statusOf w = 1 ∧ r1Of w = 0 ∧ r0Of w = 0) ∧
    ∃ w : ResponseWord, exec .illegal s = .next { s with rsp := w, st := .failed } ∧
      statusOf w = 2 ∧ r1Of w = 0 ∧ r0Of w = 0

/-- R218: outside `Idle` a command is not transferred, whatever is offered. That `exec`, if called there, changes nothing is the
model's own (log 8, DEDUCED): `step` never calls it there. -/
def Obligations.BusyUnitHoldsCommandOff : Prop :=
  ∀ (s : State), s.st ≠ .idle →
    (∀ e : Edge, s.cmdReady e = false ∧ s.cmdTransfer e = none) ∧ ∀ i : Instr, exec i s = .next s

/-- Which commands raise which error, and that no other does (R180, R181, R188). -/
def Obligations.ErrorsExactlyByOperand : Prop :=
  ∀ (s t : State) (i : Instr), s.st = .idle → exec i s = .next t →
    ((t.st = .failed ∧ statusOf t.rsp = 1) ↔ (i = .gen 0 ∨ i = .thresh 0)) ∧
    ((t.st = .failed ∧ statusOf t.rsp = 2) ↔ i = .illegal) ∧
    (t.st = .failed → statusOf t.rsp = 1 ∨ statusOf t.rsp = 2)

/-- R143, R144, R147: a first sample with `low ≥ BOUND` ends the operation; `THR` and `THRV` keep what they held. -/
def Obligations.FirstSampleFastPath : Prop :=
  ∀ (s : State) (e : Edge) (rest : List Edge) (x : Sample), s.inputs = e :: rest → s.rndTransfer e = some x →
    s.thrv = false → s.bound.toNat ≤ x.toNat * s.bound.toNat % 2 ^ 64 →
    ∃ (h l : Word) (w : ResponseWord),
      step s = .next { s with hi := h, lo := l, rsp := w, st := .done, inputs := rest, raised := false } ∧
      h.toNat = x.toNat * s.bound.toNat / 2 ^ 64 ∧ l.toNat = x.toNat * s.bound.toNat % 2 ^ 64 ∧
      statusOf w = 0 ∧ r1Of w = 0 ∧ r0Of w = h

/-- R143, R145: a first sample with `low < BOUND` computes the threshold and is tested against it: accepted when
`low ≥ THR`, otherwise rejected with `ST` and `RSP` as they were. -/
def Obligations.FirstSampleSlowPath : Prop :=
  ∀ (s : State) (e : Edge) (rest : List Edge) (x : Sample), s.inputs = e :: rest → s.rndTransfer e = some x →
    s.thrv = false → x.toNat * s.bound.toNat % 2 ^ 64 < s.bound.toNat →
    ∃ (h l t : Word),
      h.toNat = x.toNat * s.bound.toNat / 2 ^ 64 ∧ l.toNat = x.toNat * s.bound.toNat % 2 ^ 64 ∧
      t.toNat = 2 ^ 64 % s.bound.toNat ∧
      (2 ^ 64 % s.bound.toNat ≤ x.toNat * s.bound.toNat % 2 ^ 64 →
        ∃ w : ResponseWord, statusOf w = 0 ∧ r1Of w = 0 ∧ r0Of w = h ∧
          step s = .next { s with hi := h, lo := l, thr := t, thrv := true, rsp := w, st := .done, inputs := rest,
                                  raised := false }) ∧
      (x.toNat * s.bound.toNat % 2 ^ 64 < 2 ^ 64 % s.bound.toNat →
        step s = .next { s with hi := h, lo := l, thr := t, thrv := true, inputs := rest, raised := false })

/-- R143, R146: a later sample is tested against `THR` only, and neither `THR` nor `THRV` is written. -/
def Obligations.LaterSampleTestsThreshold : Prop :=
  ∀ (s : State) (e : Edge) (rest : List Edge) (x : Sample), s.inputs = e :: rest → s.rndTransfer e = some x →
    s.thrv = true →
    ∃ (h l : Word), h.toNat = x.toNat * s.bound.toNat / 2 ^ 64 ∧ l.toNat = x.toNat * s.bound.toNat % 2 ^ 64 ∧
      (s.thr.toNat ≤ x.toNat * s.bound.toNat % 2 ^ 64 →
        ∃ w : ResponseWord, statusOf w = 0 ∧ r1Of w = 0 ∧ r0Of w = h ∧
          step s = .next { s with hi := h, lo := l, rsp := w, st := .done, inputs := rest, raised := false }) ∧
      (x.toNat * s.bound.toNat % 2 ^ 64 < s.thr.toNat →
        step s = .next { s with hi := h, lo := l, inputs := rest, raised := false })

/-- R148, whole: the host is given `RSP`, `ST <- Idle`, nothing else changes, after an error as after a result; until the
host takes the response the unit keeps `ST` and `RSP` and accepts no command. -/
def Obligations.RespondHandsOverResponse : Prop :=
  ∀ (s : State) (e : Edge) (rest : List Edge), s.inputs = e :: rest →
    (s.rspTransfer e = true → (s.st = .done ∨ s.st = .failed) ∧
      step s = .next { s with received := s.received ++ [s.rsp], st := .idle, inputs := rest, raised := false }) ∧
    (s.st = .done ∨ s.st = .failed → e.rst = false → s.rspTransfer e = false →
      s.cmdTransfer e = none ∧
      ∃ t : State, step s = .next t ∧ t.st = s.st ∧ t.rsp = s.rsp ∧ t.received = s.received)

/-- An edge without transfer and without reset changes no register, in any state (R55, R190, R192); the model's `raised`
follows the output (log 4). -/
def Obligations.EdgeWithoutTransferChangesNothing : Prop :=
  ∀ (s : State) (e : Edge) (rest : List Edge), s.inputs = e :: rest → e.rst = false →
    s.cmdTransfer e = none → s.rndTransfer e = none → s.rspTransfer e = false →
    step s = .next { s with inputs := rest, raised := s.raised || !e.stall }

/-- An output that is up and not answered is still up at the next edge, however that edge stalls, with the same `RSP`: the
"keeps" of R217 (a) to (c), over the model's `stall` (log 4). -/
def Obligations.UnansweredOutputStaysUp : Prop :=
  ∀ (s t : State) (e f : Edge) (rest : List Edge), s.inputs = e :: f :: rest → e.rst = false → f.rst = false →
    s.cmdTransfer e = none → s.rndTransfer e = none → s.rspTransfer e = false → step s = .next t →
    (s.cmdReady e = true → t.cmdReady f = true) ∧ (s.rndReady e = true → t.rndReady f = true) ∧
    (s.rspValid e = true → t.rspValid f = true ∧ t.rsp = s.rsp)

/-- Each output is driven 1 only in its own states (R51), so at most one transfer happens at an edge (the spec's own
inference in R51). -/
def Obligations.AtMostOneTransferPerEdge : Prop :=
  ∀ (s : State) (e : Edge),
    (s.cmdReady e = true → s.st = .idle) ∧ (s.rndReady e = true → s.st = .sampling) ∧
    (s.rspValid e = true → s.st = .done ∨ s.st = .failed) ∧
    ¬ ((s.cmdTransfer e).isSome = true ∧ (s.rndTransfer e).isSome = true) ∧
    ¬ ((s.cmdTransfer e).isSome = true ∧ s.rspTransfer e = true) ∧
    ¬ ((s.rndTransfer e).isSome = true ∧ s.rspTransfer e = true)

/-- R183, R190: no step of the machine stops, with a fault or a refusal. -/
def Obligations.EveryStepHasNextState : Prop :=
  ∀ s : State, ∃ t : State, step s = .next t

/-- The transitions of `ST`, with the step and the condition of each, and no other: the table R149, which the spec marks as its
own inference from R106, R128, R142, R143, R148 and R182. -/
def Obligations.ControlTransitionsAreTheTable : Prop :=
  ∀ (s t : State) (e : Edge) (rest : List Edge), s.inputs = e :: rest → step s = .next t →
    (e.rst = true ∧ t.st = .idle) ∨
    (s.st = .idle ∧ (∃ w, s.cmdTransfer e = some w ∧
      ((t.st = .failed ∧
          (commandOp w = 3 ∨ ((commandOp w = 0 ∨ commandOp w = 2) ∧ commandOpa w = 0))) ∨
       (t.st = .sampling ∧ commandOp w = 0 ∧ commandOpa w ≠ 0) ∨
       (t.st = .done ∧ (commandOp w = 1 ∨ (commandOp w = 2 ∧ commandOpa w ≠ 0)))))) ∨
    (s.st = .sampling ∧ (∃ x, s.rndTransfer e = some x ∧
      ((t.st = .done ∧ s.thrv = false ∧ s.bound.toNat ≤ lowOf s.bound.toNat x) ∨
       (t.st = .done ∧ s.thrv = false ∧ lowOf s.bound.toNat x < s.bound.toNat ∧
          2 ^ 64 % s.bound.toNat ≤ lowOf s.bound.toNat x) ∨
       (t.st = .sampling ∧ s.thrv = false ∧ lowOf s.bound.toNat x < s.bound.toNat ∧
          lowOf s.bound.toNat x < 2 ^ 64 % s.bound.toNat) ∨
       (t.st = .done ∧ s.thrv = true ∧ s.thr.toNat ≤ lowOf s.bound.toNat x) ∨
       (t.st = .sampling ∧ s.thrv = true ∧ lowOf s.bound.toNat x < s.thr.toNat)))) ∨
    ((s.st = .done ∨ s.st = .failed) ∧ s.rspTransfer e = true ∧ t.st = .idle) ∨
    (e.rst = false ∧ s.cmdTransfer e = none ∧ s.rndTransfer e = none ∧ s.rspTransfer e = false ∧ t.st = s.st)

/-- R20 ("written by"), R22 to R25: which step can change each register. -/
def Obligations.RegistersWrittenOnlyByTheirSteps : Prop :=
  ∀ (s t : State) (e : Edge) (rest : List Edge), s.inputs = e :: rest → step s = .next t →
    (t.bound ≠ s.bound → ∃ w, s.cmdTransfer e = some w ∧ decode w = .gen t.bound ∧ t.bound ≠ 0) ∧
    ((t.hi ≠ s.hi ∨ t.lo ≠ s.lo) → ∃ x, s.rndTransfer e = some x) ∧
    (t.thr ≠ s.thr → s.thrv = false ∧ t.thrv = true ∧ t.lo.toNat < s.bound.toNat ∧ ∃ x, s.rndTransfer e = some x) ∧
    (t.thrv ≠ s.thrv → t.thrv = true → ∃ x, s.rndTransfer e = some x) ∧
    (t.thrv ≠ s.thrv → t.thrv = false → e.rst = true ∨ ∃ w b, s.cmdTransfer e = some w ∧ decode w = .gen b ∧ b ≠ 0) ∧
    (t.rsp ≠ s.rsp → (s.st = .idle ∨ s.st = .sampling) ∧ (t.st = .done ∨ t.st = .failed))

/-- R57, R148: a response is given only by a response transfer, which gives exactly one, the `RSP` on offer. -/
def Obligations.ResponsesGivenOnlyByRespond : Prop :=
  ∀ (s t : State) (e : Edge) (rest : List Edge), s.inputs = e :: rest → step s = .next t →
    (s.rspTransfer e = true → t.received = s.received ++ [s.rsp] ∧ t.st = .idle) ∧
    (s.rspTransfer e = false → t.received = s.received)

/-- The laws R37 (a) to (d), the spec's own inference, and "never produced" of status 3 (R77) hold right after reset. -/
def Obligations.LegalAtReset : Prop := State.reset.Legal

/-- The laws R37 (a) to (d), the spec's own inference, and "never produced" of status 3 (R77) are kept by every step, from
every state in which they hold. -/
def Obligations.EveryStepKeepsLegal : Prop :=
  ∀ s t : State, s.Legal → step s = .next t → t.Legal

/-- The result of a `GEN` is below its bound and `r1` is 0, whichever test accepted the sample: the laws R37 (e) and R153, the
spec's own inference. -/
def Obligations.GenResultBelowBound : Prop :=
  ∀ (s t : State) (e : Edge) (rest : List Edge) (x : Sample), s.inputs = e :: rest → s.rndTransfer e = some x →
    s.bound ≠ 0 → step s = .next t → t.st = .done →
    (r0Of t.rsp).toNat < t.bound.toNat ∧ r1Of t.rsp = 0 ∧ t.bound = s.bound

/-- A sample is accepted exactly when `low(s·b) ≥ 2^64 mod b`, be it the first or a later one: the law R154, the spec's own
inference. -/
def Obligations.OneAcceptanceCondition : Prop :=
  ∀ (s t : State) (e : Edge) (rest : List Edge) (x : Sample), s.Legal → s.inputs = e :: rest →
    s.rndTransfer e = some x → step s = .next t →
    (t.st = .done ↔ accepts s.bound.toNat x = true) ∧ (t.st = .sampling ↔ accepts s.bound.toNat x = false)

/-- The algorithm of R141 equals the simpler loop that tests every sample against the threshold: the last sentence of R154, the
spec's own inference. -/
def Obligations.AlgorithmEqualsSimpleLoop : Prop :=
  ∀ (b : Nat) (xs : List Sample), 0 < b → b < 2 ^ 64 → generate b xs = redraw b (2 ^ 64 % b) xs

/-- R141, whole: from `Idle`, `GEN b` fed the samples `xs` ends with the algorithm's response after the algorithm's number of
draws, and leaves the samples after the accepted one untaken; a zero bound raises `InvalidBound` with every sample untaken;
and when the algorithm needs more samples than there are, the unit is in `Sampling` with all of them taken. The edges
here follow one another without a stall or a gap; for those see `LatencyChangesNoResult`. -/
def Obligations.GenRefinesAlgorithm : Prop :=
  ∀ (s : State) (b : Word) (xs : List Sample) (tail : List Edge), s.st = .idle →
    s.inputs = Edge.offerCommand (encode (.gen b)) :: (xs.map Edge.offerSample ++ tail) →
    if b = 0 then
      ∃ t : State, step s = .next t ∧ t.st = .failed ∧ statusOf t.rsp = 1 ∧
        t.inputs = xs.map Edge.offerSample ++ tail ∧ t.received = s.received
    else match generate b.toNat xs with
      | some (v, left) => ∃ t : State, Host.Core.run Sys2Proof.core (1 + (xs.length - left.length)) s = .next t ∧
          t.st = .done ∧ statusOf t.rsp = 0 ∧ r1Of t.rsp = 0 ∧ (r0Of t.rsp).toNat = v ∧
          t.inputs = left.map Edge.offerSample ++ tail ∧ t.received = s.received
      | none => ∃ t : State, Host.Core.run Sys2Proof.core (1 + xs.length) s = .next t ∧
          t.st = .sampling ∧ t.bound = b ∧ t.inputs = tail ∧ t.received = s.received

/-- The number of draws and the result: the algorithm stops at the first sample with `low ≥ 2^64 mod b`, returns that sample's
`high` and leaves the samples after it; without such a sample it does not stop. R151 and R161, the spec's own inference. -/
def Obligations.AlgorithmStopsAtFirstAccepted : Prop :=
  ∀ (b : Nat) (before : List Sample), 0 < b → b < 2 ^ 64 → (∀ y ∈ before, accepts b y = false) →
    generate b before = none ∧
    ∀ (x : Sample) (later : List Sample), accepts b x = true →
      generate b (before ++ x :: later) = some (highOf b x, later)

/-- A whole `GEN` at the ports: one command transfer, the sample transfers up to the accepted one, one response transfer
(R57, R147, R148); then the unit is in `Idle` with exactly one more response given, `OK` with the algorithm's result. -/
def Obligations.GenOperationGivesOneResponse : Prop :=
  ∀ (s : State) (b : Word) (xs : List Sample) (v : Nat) (rest : List Edge), s.st = .idle → b ≠ 0 →
    generate b.toNat xs = some (v, []) →
    s.inputs = Edge.offerCommand (encode (.gen b)) :: (xs.map Edge.offerSample ++ Edge.takeResponse :: rest) →
    ∃ (t : State) (w : ResponseWord), Host.Core.run Sys2Proof.core (xs.length + 2) s = .next t ∧ t.st = .idle ∧
      t.inputs = rest ∧ t.received = s.received ++ [w] ∧ statusOf w = 0 ∧ r1Of w = 0 ∧ (r0Of w).toNat = v

/-- Every result below `b` is produced by exactly `2^64 div b` of the accepted samples: the law R155, the spec's own
inference. -/
def Obligations.AcceptedSamplesAreUniform : Prop :=
  ∀ (b v : Nat), 0 < b → b < 2 ^ 64 → v < b →
    (Finset.univ.filter (fun x : Sample => accepts b x = true ∧ highOf b x = v)).card = 2 ^ 64 / b

/-- Exactly `2^64 mod b` samples are rejected, fewer than half of all: the laws R155 and R156, the spec's own inference. -/
def Obligations.RejectedSamplesCounted : Prop :=
  ∀ (b : Nat), 0 < b → b < 2 ^ 64 →
    (Finset.univ.filter (fun x : Sample => accepts b x = false)).card = 2 ^ 64 % b ∧ 2 ^ 64 % b < 2 ^ 63

/-- Exactly `b` values of the first sample have `low < b` and so enter the slow path: the law R157, the spec's own inference. -/
def Obligations.SlowPathEnteredByBoundSamples : Prop :=
  ∀ (b : Nat), 0 < b → b < 2 ^ 64 → (Finset.univ.filter (fun x : Sample => lowOf b x < b)).card = b

/-- A source that always answers 0 keeps `GEN b` in `Sampling` for ever, for every bound with a nonzero threshold, each draw
using up one sample and no response being given (the example of R220; R152: the loop has no cap). -/
def Obligations.ConstantZeroSourceNeverEnds : Prop :=
  ∀ (s : State) (b : Word) (k : Nat) (tail : List Edge), s.st = .idle → 2 ^ 64 % b.toNat ≠ 0 → b ≠ 0 →
    s.inputs = Edge.offerCommand (encode (.gen b)) :: (List.replicate k (Edge.offerSample 0) ++ tail) →
    ∃ t : State, Host.Core.run Sys2Proof.core (1 + k) s = .next t ∧ t.st = .sampling ∧ t.inputs = tail ∧
      t.received = s.received

/-- The sample `2^64 - 1` is accepted for every bound, with result `b - 1`: in R161, the spec's own inference. -/
def Obligations.LargestSampleAlwaysAccepted : Prop :=
  ∀ (s : State) (e : Edge) (rest : List Edge), s.Legal → s.inputs = e :: rest →
    s.rndTransfer e = some (BitVec.allOnes 64) →
    ∃ t : State, step s = .next t ∧ t.st = .done ∧ statusOf t.rsp = 0 ∧ (r0Of t.rsp).toNat = s.bound.toNat - 1

/-- A bound `2^k` never rejects, and the result is the top `k` bits of the sample (for `k = 0`: 0): the law R159, the spec's own
inference. -/
def Obligations.PowerOfTwoNeverRejects : Prop :=
  ∀ (s : State) (e : Edge) (rest : List Edge) (x : Sample) (k : Nat), s.Legal → s.inputs = e :: rest →
    s.rndTransfer e = some x → k ≤ 63 → s.bound.toNat = 2 ^ k →
    ∃ t : State, step s = .next t ∧ t.st = .done ∧ statusOf t.rsp = 0 ∧ (r0Of t.rsp).toNat = x.toNat / 2 ^ (64 - k)

/-- The `HI` and `LO` a `GEN` forms from a sample are the `r1` and `r0` of `MULW` of the sample and the bound: R108, the spec's
own inference. -/
def Obligations.GenProductEqualsMulw : Prop :=
  ∀ (s t u v : State) (e : Edge) (rest : List Edge) (x : Sample), s.inputs = e :: rest → s.rndTransfer e = some x →
    step s = .next t → u.st = .idle → exec (.mulw x s.bound) u = .next v →
    t.hi = r1Of v.rsp ∧ t.lo = r0Of v.rsp

/-- The threshold a `GEN` computes is the `r0` of `THRESH` of its bound, and it is computed by the first draw with `low < BOUND`
only: R129, in part the spec's own inference. -/
def Obligations.GenThresholdEqualsThresh : Prop :=
  ∀ (s t u v : State) (e : Edge) (rest : List Edge) (x : Sample), s.inputs = e :: rest → s.rndTransfer e = some x →
    s.bound ≠ 0 → step s = .next t → u.st = .idle → exec (.thresh s.bound) u = .next v →
    (s.thrv = false → t.lo.toNat < s.bound.toNat → t.thr = r0Of v.rsp ∧ t.thrv = true) ∧
    ((s.thrv = true ∨ s.bound.toNat ≤ t.lo.toNat) → t.thr = s.thr ∧ t.thrv = s.thrv)

/-- What an earlier operation left in the registers cannot be told from outside (R32, R158, the spec's own inference): two units in
`Idle` with the same edges to come stay the same at the ports for any number of steps. -/
def Obligations.OperationsAreStateless : Prop :=
  ∀ (s t : State) (k : Nat), s.st = .idle → s.samePorts t →
    ∃ s' t' : State, Host.Core.run Sys2Proof.core k s = .next s' ∧ Host.Core.run Sys2Proof.core k t = .next t' ∧
      s'.samePorts t'

/-- The same offers at later edges, with any stalling in between, give the same registers and the same responses: "no rule's
outcome depends on how many" of R222, over the model's `stall` (log 4). Words may be held on offer while the unit is still
computing (R214). And every script, however it stalls, is a script without stalls stretched so. -/
def Obligations.LatencyChangesNoResult : Prop :=
  (∀ (s t : State) (fast slow : List Edge), Stretched t fast → s.sameUnit t → s.inputs = fast → t.inputs = slow →
    ∃ s' t' : State, Host.Core.run Sys2Proof.core fast.length s = .next s' ∧
      Host.Core.run Sys2Proof.core slow.length t = .next t' ∧ s'.sameUnit t') ∧
  ∀ t : State, ∃ fast : List Edge, Stretched t fast ∧ ∀ e ∈ fast, e.stall = false

/-- After `GEN 0` is accepted no sample is taken and no register of `GEN` changes, for as long as the host leaves the response; it
stays `INVALID_BOUND`: R160 and R219, the spec's own inference. -/
def Obligations.ZeroBoundDrawsNothing : Prop :=
  ∀ (s : State) (e : Edge) (es : List Edge) (w : CommandWord), s.inputs = e :: es → s.cmdTransfer e = some w →
    decode w = .gen 0 → (∀ f ∈ es, f.rst = false ∧ f.rspReady = false) → ∀ k, k ≤ es.length →
    ∃ t : State, Host.Core.run Sys2Proof.core (1 + k) s = .next t ∧ t.st = .failed ∧ statusOf t.rsp = 1 ∧
      (∀ f : Edge, t.rndTransfer f = none ∧ t.cmdTransfer f = none) ∧
      t.bound = s.bound ∧ t.hi = s.hi ∧ t.lo = s.lo ∧ t.thr = s.thr ∧ t.thrv = s.thrv ∧ t.received = s.received

/-- An operation that draws no sample is one command transfer and one response transfer, after which the unit is in `Idle` with
exactly one more response given, of the operation's own status (R57, R78). -/
def Obligations.DrawlessOperationGivesOneResponse : Prop :=
  ∀ (s : State) (i : Instr) (rest : List Edge), s.st = .idle → (∀ b, b ≠ 0 → i ≠ .gen b) →
    s.inputs = Edge.offerCommand (encode i) :: Edge.takeResponse :: rest →
    ∃ (t : State) (w : ResponseWord), Host.Core.run Sys2Proof.core 2 s = .next t ∧ t.st = .idle ∧ t.inputs = rest ∧
      t.received = s.received ++ [w] ∧
      (i = .gen 0 ∨ i = .thresh 0 → statusOf w = 1) ∧ (i = .illegal → statusOf w = 2) ∧
      (∀ x y, i = .mulw x y → statusOf w = 0 ∧ (r0Of w).toNat = x.toNat * y.toNat % 2 ^ 64) ∧
      (∀ b, i = .thresh b → b ≠ 0 → statusOf w = 0 ∧ (r0Of w).toNat = 2 ^ 64 % b.toNat)

/-- The words R81 writes out (the spec's own inference from R70 and R71), and the reserved word of spec/95_test_vectors.md 2.5,
decode to their operations. -/
def Obligations.WrittenWordsDecode : Prop :=
  decode 0x0_0000000000000000_0000000000000005#130 = .gen 5 ∧
  decode 0x1_0000000000000007_0000000000000003#130 = .mulw 3 7 ∧
  decode 0x2_0000000000000000_000000000000000A#130 = .thresh 10 ∧
  decode 0x3_0000000000000007_0000000000000005#130 = .illegal

/-- The word of each assembler line of R80, as the number R81 gives (the spec's own inference); a line whose numbers do not fit
has none. -/
def Obligations.AssemblerLinesEncode : Prop :=
  (∀ l : Line, l.encode = none ↔ l.wellFormed = false) ∧
  (∀ b, b < 2 ^ 64 → ∃ w, (Line.gen b).encode = some w ∧ w.toNat = b ∧ decode w = .gen (BitVec.ofNat 64 b)) ∧
  (∀ x y, x < 2 ^ 64 → y < 2 ^ 64 → ∃ w, (Line.mulw x y).encode = some w ∧ w.toNat = 2 ^ 128 + y * 2 ^ 64 + x ∧
    decode w = .mulw (BitVec.ofNat 64 x) (BitVec.ofNat 64 y)) ∧
  (∀ b, b < 2 ^ 64 → ∃ w, (Line.thresh b).encode = some w ∧ w.toNat = 2 * 2 ^ 128 + b ∧
    decode w = .thresh (BitVec.ofNat 64 b)) ∧
  (∀ n, n < 2 ^ 130 → ∃ w, (Line.word n).encode = some w ∧ w.toNat = n) ∧
  (Line.gen 5).encode = some 0x0_0000000000000000_0000000000000005#130 ∧
  (Line.mulw 3 7).encode = some 0x1_0000000000000007_0000000000000003#130 ∧
  (Line.thresh 10).encode = some 0x2_0000000000000000_000000000000000A#130

/-- R71, R72, R81: decoding the word of an instruction gives the instruction back, every operand at every value. -/
def Obligations.DecodeOfEncode : Prop :=
  ∀ i : Instr, i.wellFormed = true → decode (encode i) = i

/-- R73: encoding what a word decodes to gives the word back exactly when the word is canonical. -/
def Obligations.EncodeOfDecodeIffCanonical : Prop :=
  ∀ w : CommandWord, encode (decode w) = w ↔ canonical w = true

/-- R71, whole: `op` alone selects the operation, its operands are the two fields, and a field the operation does not use
takes no part. -/
def Obligations.UnusedFieldsIgnored : Prop :=
  ∀ (op : BitVec 2) (opb opb' opa opa' : Word),
    (op = 0 → decode (commandWord op opb opa) = .gen opa ∧
      decode (commandWord op opb opa) = decode (commandWord op opb' opa)) ∧
    (op = 1 → decode (commandWord op opb opa) = .mulw opa opb) ∧
    (op = 2 → decode (commandWord op opb opa) = .thresh opa ∧
      decode (commandWord op opb opa) = decode (commandWord op opb' opa)) ∧
    (op = 3 → decode (commandWord op opb opa) = .illegal ∧
      decode (commandWord op opb opa) = decode (commandWord op opb' opa'))

/-- R76, whole: the three fields of a response word, as the word's value and as what reading it gives; and exactly the words with
the reserved status (R77) have no reading. -/
def Obligations.ResponseWordsReadBack : Prop :=
  (∀ (o : Status) (r1 r0 : Word), readResponse (responseWord o r1 r0) = some ⟨o, r1, r0⟩ ∧
    (responseWord o r1 r0).toNat = o.code.toNat * 2 ^ 128 + r1.toNat * 2 ^ 64 + r0.toNat) ∧
  ∀ w : ResponseWord, readResponse w = none ↔ statusOf w = 3

/-- The laws (a) to (g) of the widening product: R104, the spec's own inference from R100. -/
def Obligations.ProductLaws : Prop :=
  ∀ x y : Word,
    ((wmul x y).high.toNat * 2 ^ 64 + (wmul x y).low.toNat = x.toNat * y.toNat) ∧
    (wmul x y = wmul y x) ∧
    (wmul x 0 = ⟨0, 0⟩ ∧ wmul x 1 = ⟨0, x⟩) ∧
    ((wmul x y).high.toNat ≤ 2 ^ 64 - 2 ∧
      ((wmul x y).high.toNat = 2 ^ 64 - 2 ↔ x.toNat = 2 ^ 64 - 1 ∧ y.toNat = 2 ^ 64 - 1) ∧
      ((wmul x y).high.toNat = 2 ^ 64 - 2 → (wmul x y).low.toNat = 1)) ∧
    ((0 < y.toNat → (wmul x y).high.toNat < y.toNat) ∧ (0 < x.toNat → (wmul x y).high.toNat < x.toNat)) ∧
    ((wmul x y).high = 0 ↔ x.toNat * y.toNat < 2 ^ 64) ∧
    (∀ k, k ≤ 63 → y.toNat = 2 ^ k →
      (wmul x y).high.toNat = x.toNat / 2 ^ (64 - k) ∧ (wmul x y).low.toNat = x.toNat * 2 ^ k % 2 ^ 64)

/-- The four-part expansion over 32-bit halves gives the same pair, and each partial product is below `2^64`: the identity of
R105, the spec's own inference. -/
def Obligations.FourPartProductAgrees : Prop :=
  ∀ (x y : Word) (x1 x0 y1 y0 : Nat), x1 < 2 ^ 32 → x0 < 2 ^ 32 → y1 < 2 ^ 32 → y0 < 2 ^ 32 →
    x.toNat = x1 * 2 ^ 32 + x0 → y.toNat = y1 * 2 ^ 32 + y0 →
    (wmul x y).high.toNat * 2 ^ 64 + (wmul x y).low.toNat =
      x1 * y1 * 2 ^ 64 + (x1 * y0 + x0 * y1) * 2 ^ 32 + x0 * y0 ∧
    x1 * y1 < 2 ^ 64 ∧ x1 * y0 < 2 ^ 64 ∧ x0 * y1 < 2 ^ 64 ∧ x0 * y0 < 2 ^ 64

/-- Truncation is reduction modulo `2^64` for every natural number (R8, R102), and its values at the three boundary points. -/
def Obligations.TruncationIsModulo : Prop :=
  (∀ r : Nat, (trunc64 r).toNat = r % 2 ^ 64) ∧ (∀ r : Nat, r < 2 ^ 64 → (trunc64 r).toNat = r) ∧
  trunc64 (2 ^ 64) = 0 ∧ trunc64 (2 ^ 64 + 1) = 1 ∧ (trunc64 (2 ^ 128 - 1)).toNat = 2 ^ 64 - 1

/-- The negation of R120 is the wrapped signed negation, zero included, and its values at the three named points (R121). -/
def Obligations.NegationIdentity : Prop :=
  (∀ x : Word, ((neg64 x).toNat : Int) = (-(sgn x)) % 2 ^ 64) ∧
  neg64 1 = 0xFFFFFFFFFFFFFFFF#64 ∧ neg64 0x8000000000000000#64 = 0x8000000000000000#64 ∧
  neg64 0xFFFFFFFFFFFFFFFF#64 = 1

/-- The three forms of the threshold agree: R123, the spec's own inference. -/
def Obligations.ThresholdFormsAgree : Prop :=
  ∀ b : Word, b ≠ 0 →
    (thr b).toNat = (neg64 b).toNat % b.toNat ∧
    (neg64 b).toNat % b.toNat = (2 ^ 64 - b.toNat) % b.toNat ∧
    (2 ^ 64 - b.toNat) % b.toNat = 2 ^ 64 % b.toNat

/-- The range of the threshold, (a) to (d), and its values: R124, the spec's own inference. -/
def Obligations.ThresholdRange : Prop :=
  (∀ b : Word, b ≠ 0 →
    (thr b).toNat < b.toNat ∧ (thr b).toNat < 2 ^ 63 ∧
    (2 ^ 63 < b.toNat → (thr b).toNat = 2 ^ 64 - b.toNat) ∧
    ((thr b).toNat = 0 ↔ ∃ k, k ≤ 63 ∧ b.toNat = 2 ^ k) ∧
    2 ^ 64 - (thr b).toNat = b.toNat * (2 ^ 64 / b.toNat)) ∧
  thr 1 = 0 ∧ thr 2 = 0 ∧ thr 3 = 1 ∧ thr 5 = 1 ∧ thr 6 = 4 ∧ thr 7 = 2 ∧ thr 10 = 6 ∧ thr 10000 = 1616 ∧
  thr 0x100000000#64 = 0 ∧ thr 0x100000001#64 = 1 ∧ thr 0x7FFFFFFFFFFFFFFF#64 = 2 ∧
  thr 0x8000000000000000#64 = 0 ∧ thr 0x8000000000000001#64 = 0x7FFFFFFFFFFFFFFF#64 ∧
  thr 0xFFFFFFFFFFFFFFFE#64 = 2 ∧ thr 0xFFFFFFFFFFFFFFFF#64 = 1
end

