-- ==== Sys2Proof/Laws/Arith.lean ====
section
/-! SUPPORT. The pure functions and comparisons, on natural numbers. -/

namespace Sys2Proof.Machine

@[simp] theorem trunc64_toNat (r : Nat) : (trunc64 r).toNat = r % 2 ^ 64 := by
  simp [trunc64]

@[simp] theorem wmul_low_toNat (x y : Word) : (wmul x y).low.toNat = x.toNat * y.toNat % 2 ^ 64 := by
  simp [wmul]

theorem product_lt (x y : Word) : x.toNat * y.toNat < 2 ^ 64 * 2 ^ 64 :=
  Nat.mul_lt_mul'' x.isLt y.isLt

@[simp] theorem wmul_high_toNat (x y : Word) : (wmul x y).high.toNat = x.toNat * y.toNat / 2 ^ 64 := by
  have h : x.toNat * y.toNat / 2 ^ 64 < 2 ^ 64 := Nat.div_lt_of_lt_mul (product_lt x y)
  simp only [wmul, BitVec.toNat_ofNat, Nat.mod_eq_of_lt h]

/-- Two halves of one product are put together again: nothing of it is lost (R102). -/
theorem wmul_value (x y : Word) :
    (wmul x y).high.toNat * 2 ^ 64 + (wmul x y).low.toNat = x.toNat * y.toNat := by
  simp only [wmul_high_toNat, wmul_low_toNat]
  omega

@[simp] theorem neg64_toNat (x : Word) : (neg64 x).toNat = (2 ^ 64 - x.toNat) % 2 ^ 64 := by
  simp [neg64]

theorem toNat_pos {b : Word} (h : b ≠ 0) : 0 < b.toNat := by
  rcases Nat.eq_zero_or_pos b.toNat with h0 | h0
  · exact absurd (BitVec.eq_of_toNat_eq (by simpa using h0)) h
  · exact h0

/-- The unit's threshold in the document's first form (R122): what R123 calls the conceptual modulo reduction. -/
theorem thr_toNat {b : Word} (h : b ≠ 0) : (thr b).toNat = 2 ^ 64 % b.toNat := by
  have hl : 2 ^ 64 % b.toNat < 2 ^ 64 := lt_trans (Nat.mod_lt _ (toNat_pos h)) b.isLt
  simp only [thr, h, if_false, BitVec.toNat_ofNat, neg64_value h, sub_mod_self_eq (Nat.le_of_lt b.isLt),
    Nat.mod_eq_of_lt hl]

@[simp] theorem boundValid_eq (b : Word) : (boundValid b = true) ↔ b ≠ 0 := by
  simp [boundValid]

@[simp] theorem boundValid_eq_false (b : Word) : (boundValid b = false) ↔ b = 0 := by
  simp [boundValid]

@[simp] theorem passesBound_eq (l b : Word) : (passesBound l b = true) ↔ b.toNat ≤ l.toNat := by
  simp [passesBound]

@[simp] theorem passesBound_eq_false (l b : Word) : (passesBound l b = false) ↔ l.toNat < b.toNat := by
  simp [passesBound]

@[simp] theorem passesThreshold_eq (l t : Word) : (passesThreshold l t = true) ↔ t.toNat ≤ l.toNat := by
  simp [passesThreshold]

@[simp] theorem passesThreshold_eq_false (l t : Word) : (passesThreshold l t = false) ↔ l.toNat < t.toNat := by
  simp [passesThreshold]

end Sys2Proof.Machine
end

