-- ==== Sys2Proof/Laws/Words.lean ====
section
/-! SUPPORT. The fields of a packed word are the parts it was packed from. -/

namespace Sys2Proof

theorem extract_top (a : BitVec 2) (b c : BitVec 64) : (a ++ b ++ c : BitVec 130).extractLsb' 128 2 = a := by
  refine BitVec.eq_of_getLsbD_eq fun i hi => ?_
  simp only [BitVec.getLsbD_extractLsb', BitVec.getLsbD_append, hi, decide_true, Bool.true_and]
  rw [if_neg (by omega), if_neg (by omega), show 128 + i - 64 - 64 = i by omega]

theorem extract_middle (a : BitVec 2) (b c : BitVec 64) : (a ++ b ++ c : BitVec 130).extractLsb' 64 64 = b := by
  ext i hi
  have h : (a ++ b ++ c).getLsbD (64 + i) = b.getLsbD i := by
    rw [BitVec.getLsbD_append, if_neg (by omega), BitVec.getLsbD_append, if_pos (by omega),
      show 64 + i - 64 = i by omega]
  simpa [BitVec.getLsbD_eq_getElem hi] using h

theorem extract_bottom (a : BitVec 2) (b c : BitVec 64) : (a ++ b ++ c : BitVec 130).extractLsb' 0 64 = c := by
  refine BitVec.eq_of_getLsbD_eq fun i hi => ?_
  simp only [BitVec.getLsbD_extractLsb', BitVec.getLsbD_append, hi, decide_true, Bool.true_and]
  rw [if_pos (by omega), Nat.zero_add]

/-- A 130-bit word is its three fields. -/
theorem append_extract (w : BitVec 130) :
    (w.extractLsb' 128 2 ++ w.extractLsb' 64 64 ++ w.extractLsb' 0 64 : BitVec 130) = w := by
  refine BitVec.eq_of_getLsbD_eq fun i hi => ?_
  simp only [BitVec.getLsbD_append, BitVec.getLsbD_extractLsb']
  split
  · simp [*]
  · split
    · simp_all
    · rw [show (128 + (i - 64 - 64)) = i by omega]
      simp only [Bool.and_eq_right_iff_imp, decide_eq_true_eq]
      omega

@[simp] theorem commandOp_commandWord (op : BitVec 2) (b a : Word) : commandOp (commandWord op b a) = op :=
  extract_top op b a

@[simp] theorem commandOpb_commandWord (op : BitVec 2) (b a : Word) : commandOpb (commandWord op b a) = b :=
  extract_middle op b a

@[simp] theorem commandOpa_commandWord (op : BitVec 2) (b a : Word) : commandOpa (commandWord op b a) = a :=
  extract_bottom op b a

@[simp] theorem commandWord_fields (w : CommandWord) :
    commandWord (commandOp w) (commandOpb w) (commandOpa w) = w :=
  append_extract w

namespace Machine

@[simp] theorem statusOf_pack (c : BitVec 2) (r1 r0 : Word) : statusOf (packResponse c r1 r0) = c :=
  extract_top c r1 r0

@[simp] theorem r1Of_pack (c : BitVec 2) (r1 r0 : Word) : r1Of (packResponse c r1 r0) = r1 :=
  extract_middle c r1 r0

@[simp] theorem r0Of_pack (c : BitVec 2) (r1 r0 : Word) : r0Of (packResponse c r1 r0) = r0 :=
  extract_bottom c r1 r0

@[simp] theorem statusOf_response (o : Status) (r1 r0 : Word) : statusOf (responseWord o r1 r0) = o.code :=
  statusOf_pack o.code r1 r0

@[simp] theorem r1Of_response (o : Status) (r1 r0 : Word) : r1Of (responseWord o r1 r0) = r1 :=
  r1Of_pack o.code r1 r0

@[simp] theorem r0Of_response (o : Status) (r1 r0 : Word) : r0Of (responseWord o r1 r0) = r0 :=
  r0Of_pack o.code r1 r0

end Machine

end Sys2Proof
end

