-- ==== Sys2Proof/Laws/PerInstr.lean ====
section
/-! SUPPORT. One fact of the syntax per instruction. -/

namespace Sys2Proof.Laws.EncodeCanonical

/-- The encoder writes the canonical word of its instruction, under the instruction's own `op` (R71, R73). -/
def Statement (i : Instr) : Prop := canonical (encode i) = true ∧ commandOp (encode i) = opcode i

theorem gen (b : Word) : Statement (.gen b) := by
  simp [Statement, canonical, encode, opcode]

theorem mulw (x y : Word) : Statement (.mulw x y) := by
  simp [Statement, canonical, encode, opcode]

theorem thresh (b : Word) : Statement (.thresh b) := by
  simp [Statement, canonical, encode, opcode]

theorem illegal : Statement .illegal := by
  simp [Statement, canonical, encode, opcode]

end Sys2Proof.Laws.EncodeCanonical
end

