-- ==== Sys2Proof/Laws/State.lean ====
section
/-! SUPPORT. One lemma per field per update of the state, true by rfl. -/

namespace Sys2Proof.Machine

variable (s : State)

@[simp] theorem State.startSampling_st (b : Word) : (s.startSampling b).st = .sampling := rfl
@[simp] theorem State.startSampling_bound (b : Word) : (s.startSampling b).bound = b := rfl
@[simp] theorem State.startSampling_hi (b : Word) : (s.startSampling b).hi = s.hi := rfl
@[simp] theorem State.startSampling_lo (b : Word) : (s.startSampling b).lo = s.lo := rfl
@[simp] theorem State.startSampling_thr (b : Word) : (s.startSampling b).thr = s.thr := rfl
@[simp] theorem State.startSampling_thrv (b : Word) : (s.startSampling b).thrv = false := rfl
@[simp] theorem State.startSampling_rsp (b : Word) : (s.startSampling b).rsp = s.rsp := rfl
@[simp] theorem State.startSampling_raised (b : Word) : (s.startSampling b).raised = s.raised := rfl
@[simp] theorem State.startSampling_inputs (b : Word) : (s.startSampling b).inputs = s.inputs := rfl
@[simp] theorem State.startSampling_received (b : Word) : (s.startSampling b).received = s.received := rfl

@[simp] theorem State.setProduct_st (p : Product) : (s.setProduct p).st = s.st := rfl
@[simp] theorem State.setProduct_bound (p : Product) : (s.setProduct p).bound = s.bound := rfl
@[simp] theorem State.setProduct_hi (p : Product) : (s.setProduct p).hi = p.high := rfl
@[simp] theorem State.setProduct_lo (p : Product) : (s.setProduct p).lo = p.low := rfl
@[simp] theorem State.setProduct_thr (p : Product) : (s.setProduct p).thr = s.thr := rfl
@[simp] theorem State.setProduct_thrv (p : Product) : (s.setProduct p).thrv = s.thrv := rfl
@[simp] theorem State.setProduct_rsp (p : Product) : (s.setProduct p).rsp = s.rsp := rfl
@[simp] theorem State.setProduct_raised (p : Product) : (s.setProduct p).raised = s.raised := rfl
@[simp] theorem State.setProduct_inputs (p : Product) : (s.setProduct p).inputs = s.inputs := rfl
@[simp] theorem State.setProduct_received (p : Product) : (s.setProduct p).received = s.received := rfl

@[simp] theorem State.setThreshold_st (t : Word) : (s.setThreshold t).st = s.st := rfl
@[simp] theorem State.setThreshold_bound (t : Word) : (s.setThreshold t).bound = s.bound := rfl
@[simp] theorem State.setThreshold_hi (t : Word) : (s.setThreshold t).hi = s.hi := rfl
@[simp] theorem State.setThreshold_lo (t : Word) : (s.setThreshold t).lo = s.lo := rfl
@[simp] theorem State.setThreshold_thr (t : Word) : (s.setThreshold t).thr = t := rfl
@[simp] theorem State.setThreshold_thrv (t : Word) : (s.setThreshold t).thrv = true := rfl
@[simp] theorem State.setThreshold_rsp (t : Word) : (s.setThreshold t).rsp = s.rsp := rfl
@[simp] theorem State.setThreshold_raised (t : Word) : (s.setThreshold t).raised = s.raised := rfl
@[simp] theorem State.setThreshold_inputs (t : Word) : (s.setThreshold t).inputs = s.inputs := rfl
@[simp] theorem State.setThreshold_received (t : Word) : (s.setThreshold t).received = s.received := rfl

@[simp] theorem State.finish_st (r1 r0 : Word) : (s.finish r1 r0).st = .done := rfl
@[simp] theorem State.finish_bound (r1 r0 : Word) : (s.finish r1 r0).bound = s.bound := rfl
@[simp] theorem State.finish_hi (r1 r0 : Word) : (s.finish r1 r0).hi = s.hi := rfl
@[simp] theorem State.finish_lo (r1 r0 : Word) : (s.finish r1 r0).lo = s.lo := rfl
@[simp] theorem State.finish_thr (r1 r0 : Word) : (s.finish r1 r0).thr = s.thr := rfl
@[simp] theorem State.finish_thrv (r1 r0 : Word) : (s.finish r1 r0).thrv = s.thrv := rfl
@[simp] theorem State.finish_rsp (r1 r0 : Word) : (s.finish r1 r0).rsp = responseWord .ok r1 r0 := rfl
@[simp] theorem State.finish_raised (r1 r0 : Word) : (s.finish r1 r0).raised = s.raised := rfl
@[simp] theorem State.finish_inputs (r1 r0 : Word) : (s.finish r1 r0).inputs = s.inputs := rfl
@[simp] theorem State.finish_received (r1 r0 : Word) : (s.finish r1 r0).received = s.received := rfl

@[simp] theorem State.raiseError_st (c : Cause) : (s.raiseError c).st = .failed := rfl
@[simp] theorem State.raiseError_bound (c : Cause) : (s.raiseError c).bound = s.bound := rfl
@[simp] theorem State.raiseError_hi (c : Cause) : (s.raiseError c).hi = s.hi := rfl
@[simp] theorem State.raiseError_lo (c : Cause) : (s.raiseError c).lo = s.lo := rfl
@[simp] theorem State.raiseError_thr (c : Cause) : (s.raiseError c).thr = s.thr := rfl
@[simp] theorem State.raiseError_thrv (c : Cause) : (s.raiseError c).thrv = s.thrv := rfl
@[simp] theorem State.raiseError_rsp (c : Cause) : (s.raiseError c).rsp = responseWord c.status 0 0 := rfl
@[simp] theorem State.raiseError_raised (c : Cause) : (s.raiseError c).raised = s.raised := rfl
@[simp] theorem State.raiseError_inputs (c : Cause) : (s.raiseError c).inputs = s.inputs := rfl
@[simp] theorem State.raiseError_received (c : Cause) : (s.raiseError c).received = s.received := rfl

@[simp] theorem State.respond_st : s.respond.st = .idle := rfl
@[simp] theorem State.respond_bound : s.respond.bound = s.bound := rfl
@[simp] theorem State.respond_hi : s.respond.hi = s.hi := rfl
@[simp] theorem State.respond_lo : s.respond.lo = s.lo := rfl
@[simp] theorem State.respond_thr : s.respond.thr = s.thr := rfl
@[simp] theorem State.respond_thrv : s.respond.thrv = s.thrv := rfl
@[simp] theorem State.respond_rsp : s.respond.rsp = s.rsp := rfl
@[simp] theorem State.respond_raised : s.respond.raised = s.raised := rfl
@[simp] theorem State.respond_inputs : s.respond.inputs = s.inputs := rfl
@[simp] theorem State.respond_received : s.respond.received = s.received ++ [s.rsp] := rfl

@[simp] theorem State.resetEvent_st : s.resetEvent.st = .idle := rfl
@[simp] theorem State.resetEvent_bound : s.resetEvent.bound = s.bound := rfl
@[simp] theorem State.resetEvent_hi : s.resetEvent.hi = s.hi := rfl
@[simp] theorem State.resetEvent_lo : s.resetEvent.lo = s.lo := rfl
@[simp] theorem State.resetEvent_thr : s.resetEvent.thr = s.thr := rfl
@[simp] theorem State.resetEvent_thrv : s.resetEvent.thrv = false := rfl
@[simp] theorem State.resetEvent_rsp : s.resetEvent.rsp = s.rsp := rfl
@[simp] theorem State.resetEvent_raised : s.resetEvent.raised = false := rfl
@[simp] theorem State.resetEvent_inputs : s.resetEvent.inputs = s.inputs := rfl
@[simp] theorem State.resetEvent_received : s.resetEvent.received = s.received := rfl

@[simp] theorem State.lowerOutput_st : s.lowerOutput.st = s.st := rfl
@[simp] theorem State.lowerOutput_bound : s.lowerOutput.bound = s.bound := rfl
@[simp] theorem State.lowerOutput_hi : s.lowerOutput.hi = s.hi := rfl
@[simp] theorem State.lowerOutput_lo : s.lowerOutput.lo = s.lo := rfl
@[simp] theorem State.lowerOutput_thr : s.lowerOutput.thr = s.thr := rfl
@[simp] theorem State.lowerOutput_thrv : s.lowerOutput.thrv = s.thrv := rfl
@[simp] theorem State.lowerOutput_rsp : s.lowerOutput.rsp = s.rsp := rfl
@[simp] theorem State.lowerOutput_raised : s.lowerOutput.raised = false := rfl
@[simp] theorem State.lowerOutput_inputs : s.lowerOutput.inputs = s.inputs := rfl
@[simp] theorem State.lowerOutput_received : s.lowerOutput.received = s.received := rfl

@[simp] theorem State.waitEdge_st (e : Edge) : (s.waitEdge e).st = s.st := rfl
@[simp] theorem State.waitEdge_bound (e : Edge) : (s.waitEdge e).bound = s.bound := rfl
@[simp] theorem State.waitEdge_hi (e : Edge) : (s.waitEdge e).hi = s.hi := rfl
@[simp] theorem State.waitEdge_lo (e : Edge) : (s.waitEdge e).lo = s.lo := rfl
@[simp] theorem State.waitEdge_thr (e : Edge) : (s.waitEdge e).thr = s.thr := rfl
@[simp] theorem State.waitEdge_thrv (e : Edge) : (s.waitEdge e).thrv = s.thrv := rfl
@[simp] theorem State.waitEdge_rsp (e : Edge) : (s.waitEdge e).rsp = s.rsp := rfl
@[simp] theorem State.waitEdge_raised (e : Edge) : (s.waitEdge e).raised = s.outputUp e := rfl
@[simp] theorem State.waitEdge_inputs (e : Edge) : (s.waitEdge e).inputs = s.inputs := rfl
@[simp] theorem State.waitEdge_received (e : Edge) : (s.waitEdge e).received = s.received := rfl

@[simp] theorem State.dropEdge_st (rest : List Edge) : (s.dropEdge rest).st = s.st := rfl
@[simp] theorem State.dropEdge_bound (rest : List Edge) : (s.dropEdge rest).bound = s.bound := rfl
@[simp] theorem State.dropEdge_hi (rest : List Edge) : (s.dropEdge rest).hi = s.hi := rfl
@[simp] theorem State.dropEdge_lo (rest : List Edge) : (s.dropEdge rest).lo = s.lo := rfl
@[simp] theorem State.dropEdge_thr (rest : List Edge) : (s.dropEdge rest).thr = s.thr := rfl
@[simp] theorem State.dropEdge_thrv (rest : List Edge) : (s.dropEdge rest).thrv = s.thrv := rfl
@[simp] theorem State.dropEdge_rsp (rest : List Edge) : (s.dropEdge rest).rsp = s.rsp := rfl
@[simp] theorem State.dropEdge_raised (rest : List Edge) : (s.dropEdge rest).raised = s.raised := rfl
@[simp] theorem State.dropEdge_inputs (rest : List Edge) : (s.dropEdge rest).inputs = rest := rfl
@[simp] theorem State.dropEdge_received (rest : List Edge) : (s.dropEdge rest).received = s.received := rfl

/-! The transfers at an edge depend on the control state and on what is raised only. -/

@[simp] theorem State.dropEdge_outputUp (rest : List Edge) (e : Edge) : (s.dropEdge rest).outputUp e = s.outputUp e := rfl
@[simp] theorem State.dropEdge_cmdTransfer (rest : List Edge) (e : Edge) : (s.dropEdge rest).cmdTransfer e = s.cmdTransfer e := rfl
@[simp] theorem State.dropEdge_rndTransfer (rest : List Edge) (e : Edge) : (s.dropEdge rest).rndTransfer e = s.rndTransfer e := rfl
@[simp] theorem State.dropEdge_rspTransfer (rest : List Edge) (e : Edge) : (s.dropEdge rest).rspTransfer e = s.rspTransfer e := rfl

end Sys2Proof.Machine
end

