-- ==== Sys2Proof/Laws/Step.lean ====
section
/-! SUPPORT. Everything each shared operation can do, said once. -/

namespace Sys2Proof.Machine

/-- What `whenIdle` answers: the accepted result in `Idle`, the state as it is otherwise. -/
theorem whenIdle_cases {s : State} {a r : Result} (h : whenIdle s a = r) :
    (s.st = .idle ∧ r = a) ∨ (s.st ≠ .idle ∧ r = .next s) := by
  unfold whenIdle at h
  split at h
  · exact .inl ⟨‹_›, h.symm⟩
  · exact .inr ⟨‹_›, h.symm⟩

/-- What `draw` can do: accept on the fast path, accept or reject a first sample on the slow path, accept or reject a
later sample. -/
theorem draw_cases (x : Sample) (s : State) :
    (s.thrv = false ∧ passesBound (wmul x s.bound).low s.bound = true ∧
      draw x s = (s.setProduct (wmul x s.bound)).finish 0 (wmul x s.bound).high) ∨
    (s.thrv = false ∧ passesBound (wmul x s.bound).low s.bound = false ∧
      passesThreshold (wmul x s.bound).low (thr s.bound) = true ∧
      draw x s = ((s.setProduct (wmul x s.bound)).setThreshold (thr s.bound)).finish 0 (wmul x s.bound).high) ∨
    (s.thrv = false ∧ passesBound (wmul x s.bound).low s.bound = false ∧
      passesThreshold (wmul x s.bound).low (thr s.bound) = false ∧
      draw x s = (s.setProduct (wmul x s.bound)).setThreshold (thr s.bound)) ∨
    (s.thrv = true ∧ passesThreshold (wmul x s.bound).low s.thr = true ∧
      draw x s = (s.setProduct (wmul x s.bound)).finish 0 (wmul x s.bound).high) ∨
    (s.thrv = true ∧ passesThreshold (wmul x s.bound).low s.thr = false ∧
      draw x s = s.setProduct (wmul x s.bound)) := by
  cases hv : s.thrv <;> cases hb : passesBound (wmul x s.bound).low s.bound <;>
    cases ht : passesThreshold (wmul x s.bound).low (thr s.bound) <;>
    cases hl : passesThreshold (wmul x s.bound).low s.thr <;> simp [draw, slowPath, hv, hb, ht, hl]

/-- The registers a `draw` leaves alone, whatever it does. -/
@[simp] theorem draw_bound (x : Sample) (s : State) : (draw x s).bound = s.bound := by
  rcases draw_cases x s with ⟨_, _, h⟩ | ⟨_, _, _, h⟩ | ⟨_, _, _, h⟩ | ⟨_, _, h⟩ | ⟨_, _, h⟩ <;> simp [h]

@[simp] theorem draw_raised (x : Sample) (s : State) : (draw x s).raised = s.raised := by
  rcases draw_cases x s with ⟨_, _, h⟩ | ⟨_, _, _, h⟩ | ⟨_, _, _, h⟩ | ⟨_, _, h⟩ | ⟨_, _, h⟩ <;> simp [h]

@[simp] theorem draw_inputs (x : Sample) (s : State) : (draw x s).inputs = s.inputs := by
  rcases draw_cases x s with ⟨_, _, h⟩ | ⟨_, _, _, h⟩ | ⟨_, _, _, h⟩ | ⟨_, _, h⟩ | ⟨_, _, h⟩ <;> simp [h]

@[simp] theorem draw_received (x : Sample) (s : State) : (draw x s).received = s.received := by
  rcases draw_cases x s with ⟨_, _, h⟩ | ⟨_, _, _, h⟩ | ⟨_, _, _, h⟩ | ⟨_, _, h⟩ | ⟨_, _, h⟩ <;> simp [h]

/-- What `exec` can do, for every instruction: the five ends of an `accept` step, and nothing in any state but `Idle`. -/
theorem exec_cases (i : Instr) (s : State) :
    (s.st ≠ .idle ∧ exec i s = .next s) ∨
    (s.st = .idle ∧
      ((∃ b, i = .gen b ∧ b ≠ 0 ∧ exec i s = .next (s.startSampling b)) ∨
       (i = .gen 0 ∧ exec i s = .next (s.raiseError .invalidBound)) ∨
       (∃ x y, i = .mulw x y ∧ exec i s = .next (s.finish (wmul x y).high (wmul x y).low)) ∨
       (∃ b, i = .thresh b ∧ b ≠ 0 ∧ exec i s = .next (s.finish (neg64 b) (thr b))) ∨
       (i = .thresh 0 ∧ exec i s = .next (s.raiseError .invalidBound)) ∨
       (i = .illegal ∧ exec i s = .next (s.raiseError .illegalOp)))) := by
  by_cases h : s.st = .idle
  · refine .inr ⟨h, ?_⟩
    cases i with
    | gen b =>
      by_cases hb : b = 0
      · subst hb; exact .inr (.inl ⟨rfl, by simp [exec, execGen, whenIdle, h, boundValid]⟩)
      · exact .inl ⟨b, rfl, hb, by simp [exec, execGen, whenIdle, h, boundValid, show ¬b = 0#64 from hb]⟩
    | mulw x y =>
      exact .inr (.inr (.inl ⟨x, y, rfl, by simp [exec, execMulw, whenIdle, h]⟩))
    | thresh b =>
      by_cases hb : b = 0
      · subst hb
        exact .inr (.inr (.inr (.inr (.inl ⟨rfl, by simp [exec, execThresh, whenIdle, h, boundValid]⟩))))
      · exact .inr (.inr (.inr (.inl ⟨b, rfl, hb, by simp [exec, execThresh, whenIdle, h, boundValid, show ¬b = 0#64 from hb]⟩)))
    | illegal =>
      exact .inr (.inr (.inr (.inr (.inr ⟨rfl, by simp [exec, execIllegal, whenIdle, h]⟩))))
  · refine .inl ⟨h, ?_⟩
    cases i <;> simp [exec, execGen, execMulw, execThresh, execIllegal, whenIdle, h]

/-- When a command is transferred. -/
theorem cmdTransfer_some {s : State} {e : Edge} {w : CommandWord} :
    s.cmdTransfer e = some w ↔ e.rst = false ∧ (s.raised = true ∨ e.stall = false) ∧ s.st = .idle ∧ e.cmd = some w := by
  simp [State.cmdTransfer, State.cmdReady, State.outputUp, and_assoc]

/-- When a sample is transferred. -/
theorem rndTransfer_some {s : State} {e : Edge} {x : Sample} :
    s.rndTransfer e = some x ↔
      e.rst = false ∧ (s.raised = true ∨ e.stall = false) ∧ s.st = .sampling ∧ e.rnd = some x := by
  simp [State.rndTransfer, State.rndReady, State.outputUp, and_assoc]

/-- When a response is transferred. -/
theorem rspTransfer_true {s : State} {e : Edge} :
    s.rspTransfer e = true ↔
      e.rst = false ∧ (s.raised = true ∨ e.stall = false) ∧ (s.st = .done ∨ s.st = .failed) ∧ e.rspReady = true := by
  simp [State.rspTransfer, State.rspValid, State.outputUp, and_assoc]

/-- The edge of a command transfer. -/
theorem clockEdge_command {s : State} {e : Edge} {w : CommandWord} (h : s.cmdTransfer e = some w) :
    clockEdge e s = exec (decode w) s.lowerOutput := by
  simp [clockEdge, (cmdTransfer_some.1 h).1, h]

/-- The edge of a sample transfer. -/
theorem clockEdge_sample {s : State} {e : Edge} {x : Sample} (h : s.rndTransfer e = some x) :
    clockEdge e s = .next (draw x s.lowerOutput) := by
  obtain ⟨hr, _, hst, _⟩ := rndTransfer_some.1 h
  have hc : s.cmdTransfer e = none := by simp [State.cmdTransfer, State.cmdReady, hst]
  simp [clockEdge, hr, hc, h]

/-- The edge of a response transfer. -/
theorem clockEdge_response {s : State} {e : Edge} (h : s.rspTransfer e = true) :
    clockEdge e s = .next s.lowerOutput.respond := by
  obtain ⟨hr, _, hst, _⟩ := rspTransfer_true.1 h
  have hc : s.cmdTransfer e = none := by rcases hst with h | h <;> simp [State.cmdTransfer, State.cmdReady, h]
  have hx : s.rndTransfer e = none := by rcases hst with h | h <;> simp [State.rndTransfer, State.rndReady, h]
  simp [clockEdge, hr, hc, hx, h]

/-- An edge without reset and without transfer. -/
theorem clockEdge_wait {s : State} {e : Edge} (hr : e.rst = false) (hc : s.cmdTransfer e = none)
    (hx : s.rndTransfer e = none) (hp : s.rspTransfer e = false) : clockEdge e s = .next (s.waitEdge e) := by
  simp [clockEdge, hr, hc, hx, hp]

/-- What one clock edge can do: reset, one of the three transfers, or none. -/
theorem clockEdge_cases (e : Edge) (s : State) :
    (e.rst = true ∧ clockEdge e s = .next s.resetEvent) ∨
    (∃ w, s.cmdTransfer e = some w ∧ clockEdge e s = exec (decode w) s.lowerOutput) ∨
    (∃ x, s.rndTransfer e = some x ∧ clockEdge e s = .next (draw x s.lowerOutput)) ∨
    (s.rspTransfer e = true ∧ clockEdge e s = .next s.lowerOutput.respond) ∨
    (e.rst = false ∧ s.cmdTransfer e = none ∧ s.rndTransfer e = none ∧ s.rspTransfer e = false ∧
      clockEdge e s = .next (s.waitEdge e)) := by
  cases hr : e.rst
  · cases hc : s.cmdTransfer e with
    | some w => exact .inr (.inl ⟨w, rfl, by simp [clockEdge, hr, hc]⟩)
    | none =>
      cases hx : s.rndTransfer e with
      | some x => exact .inr (.inr (.inl ⟨x, rfl, by simp [clockEdge, hr, hc, hx]⟩))
      | none =>
        cases hp : s.rspTransfer e
        · exact .inr (.inr (.inr (.inr ⟨rfl, rfl, rfl, rfl, by simp [clockEdge, hr, hc, hx, hp]⟩)))
        · exact .inr (.inr (.inr (.inl ⟨rfl, by simp [clockEdge, hr, hc, hx, hp]⟩)))
  · exact .inl ⟨rfl, by simp [clockEdge, hr]⟩

/-- Past the last edge of the script nothing happens. -/
theorem step_nil {s : State} (h : s.inputs = []) : step s = .next s := by
  simp [step, nextEdge, h]

/-- A step is what its clock edge does. -/
theorem step_cons {s : State} {e : Edge} {rest : List Edge} (h : s.inputs = e :: rest) :
    step s = clockEdge e (s.dropEdge rest) := by
  simp [step, nextEdge, h]

end Sys2Proof.Machine
end

