-- ==== Sys2Proof/Tests/Slice0.lean ====
section
/-! SUPPORT. Tests, each with its source in spec/, and for each statement with hypotheses a state that meets them. Expected
values are those of spec/95_test_vectors.md and of the rules' own tables, never the model's own answers. -/

namespace Sys2Proof.Tests

open Sys2Proof Sys2Proof.Machine

/-! Well-formedness: an ill-formed term for each check. -/

theorem test_operand_too_wide_refused : (Line.gen (2 ^ 64)).wellFormed = false := by decide
theorem test_mulw_second_operand_too_wide_refused : (Line.mulw 0 (2 ^ 64)).wellFormed = false := by decide
theorem test_thresh_operand_too_wide_refused : (Line.thresh (2 ^ 64)).wellFormed = false := by decide
theorem test_raw_word_too_wide_refused : (Line.word (2 ^ 130)).wellFormed = false := by decide
theorem test_largest_operand_fits : (Line.mulw (2 ^ 64 - 1) (2 ^ 64 - 1)).wellFormed = true := by decide
theorem test_wide_number_is_no_command : decodeTableWord 136 (2 ^ 130) = none := by decide
theorem test_gen_with_opb_not_canonical : canonical 0x0_FFFF0000FFFF0000_0000000000000005#130 = false := by decide

/-! Decoding and encoding: words written out from R70 and R71; 95_test_vectors.md 2.1, 2.2, 2.5. -/

theorem test_decode_gen_noncanonical : decode 0x0_FFFF0000FFFF0000_0000000000000005#130 = .gen 5 := by decide
theorem test_decode_mulw : decode 0x1_00003D30F19CD101_0000000000042F01#130 =
    .mulw 0x42F01 0x3D30F19CD101 := by decide
theorem test_decode_thresh_noncanonical : decode 0x2_DEADBEEFCAFEBABE_000000000000000A#130 = .thresh 10 := by decide
theorem test_decode_reserved_all_ones : decode 0x3_FFFFFFFFFFFFFFFF_FFFFFFFFFFFFFFFF#130 = .illegal := by decide
theorem test_encode_mulw : encode (.mulw 0x123456789ABCDEF0 0x0FEDCBA987654321) =
    0x1_0FEDCBA987654321_123456789ABCDEF0#130 := by decide
theorem test_encode_thresh : encode (.thresh 10000) = 0x2_0000000000000000_0000000000002710#130 := by decide
theorem test_encode_gen : encode (.gen 0x8000000000000001) = 0x0_0000000000000000_8000000000000001#130 := by decide
theorem test_encode_illegal : encode .illegal = 0x3_0000000000000000_0000000000000000#130 := by decide

/-! The pure functions: R107, 95_test_vectors.md 1.2, 1.7, 2.2. -/

theorem test_wmul_largest : wmul 0xFFFFFFFFFFFFFFFF 0xFFFFFFFFFFFFFFFF = ⟨0xFFFFFFFFFFFFFFFE, 1⟩ := by decide
theorem test_wmul_mixed : wmul 0x123456789ABCDEF0 0x0FEDCBA987654321 =
    ⟨0x0121FA00AD77D742, 0x2236D88FE5618CF0⟩ := by decide
theorem test_neg64_zero : neg64 0 = 0 := by decide
theorem test_thr_10000 : thr 10000 = 0x650 := by decide
theorem test_thr_deadbeef : thr 0xDEADBEEFCAFEBABE = 0x2152411035014542 := by decide

/-! One step of each operation, and of `draw`, `respond`, `reset`. -/

/-- A state with these registers and one edge to come. -/
def at1 (st : Control) (bound thr : Word) (thrv : Bool) (e : Edge) : State :=
  { State.reset with st := st, bound := bound, thr := thr, thrv := thrv, inputs := [e] }

/-- The state after a step that has one. -/
def after (r : Result) : State :=
  match r with
  | .next t => t
  | .fault _ => State.reset
  | .refused _ => State.reset

/-- `MULW 0xFFFFFFFFFFFFFFFF, 2` from its word (95_test_vectors.md 2.1). -/
theorem test_step_mulw_response :
    (after (step (at1 .idle 0 0 false (.offerCommand 0x1_0000000000000002_FFFFFFFFFFFFFFFF#130)))).rsp =
      0x0_0000000000000001_FFFFFFFFFFFFFFFE#130 := by decide
theorem test_step_mulw_control :
    (after (step (at1 .idle 0 0 true (.offerCommand 0x1_0000000000000000_0000000000000000#130)))).st = .done := by decide
/-- `THRESH 0x8000000000000001` (95_test_vectors.md 2.2). -/
theorem test_step_thresh_response :
    (after (step (at1 .idle 0 0 false (.offerCommand 0x2_0000000000000000_8000000000000001#130)))).rsp =
      0x0_7FFFFFFFFFFFFFFF_7FFFFFFFFFFFFFFF#130 := by decide
/-- `THRESH 0` with a nonzero unused field (95_test_vectors.md 2.5). -/
theorem test_step_thresh_zero_response :
    (after (step (at1 .idle 0 0 false (.offerCommand 0x2_0000000000000005_0000000000000000#130)))).rsp =
      0x1_0000000000000000_0000000000000000#130 := by decide
/-- `GEN 6` accepted (95_test_vectors.md 2.7); `THRV` was 1 before. -/
theorem test_step_gen_starts :
    let t := after (step (at1 .idle 9 9 true (.offerCommand 0x0_0000000000000000_0000000000000006#130)))
    t.st = .sampling ∧ t.bound = 6 ∧ t.thrv = false := by decide
/-- `GEN 0` (95_test_vectors.md 2.5). -/
theorem test_step_gen_zero :
    let t := after (step (at1 .idle 9 9 true (.offerCommand 0x0_FFFFFFFFFFFFFFFF_0000000000000000#130)))
    t.st = .failed ∧ t.rsp = 0x1_0000000000000000_0000000000000000#130 ∧ t.bound = 9 ∧ t.thrv = true := by decide
/-- The reserved word of program P3 (95_test_vectors.md 3.3). -/
theorem test_step_illegal :
    (after (step (at1 .idle 0 0 false (.offerCommand 0x3_0000000000000007_0000000000000005#130)))).rsp =
      0x2_0000000000000000_0000000000000000#130 := by decide
theorem test_step_illegal_control :
    (after (step (at1 .idle 0 0 false (.offerCommand 0x3_0000000000000007_0000000000000005#130)))).st = .failed := by decide
/-- The fast path needs `LO ≥ BOUND`, not `>`: `GEN 5`, sample 1 (95_test_vectors.md 2.3). -/
theorem test_draw_fast_path_at_equality :
    let t := after (step (at1 .sampling 5 0 false (.offerSample 1)))
    t.st = .done ∧ t.rsp = 0 ∧ t.thrv = false ∧ t.lo = 5 := by decide
/-- `GEN 5`, sample 0x3333333333333334: slow path, accepted at once (95_test_vectors.md 2.3). -/
theorem test_draw_slow_path_accepts :
    let t := after (step (at1 .sampling 5 0 false (.offerSample 0x3333333333333334)))
    t.st = .done ∧ t.rsp = 1 ∧ t.thrv = true ∧ t.thr = 1 ∧ t.hi = 1 ∧ t.lo = 4 := by decide
/-- `GEN 6`, first sample rejected (95_test_vectors.md 2.7). -/
theorem test_draw_first_rejected :
    let t := after (step (at1 .sampling 6 0 false (.offerSample 0x2AAAAAAAAAAAAAAB)))
    t.st = .sampling ∧ t.thrv = true ∧ t.thr = 4 ∧ t.hi = 1 ∧ t.lo = 2 ∧ t.rsp = 0 := by decide
/-- `GEN 3`, a later sample with `THR ≤ LO < BOUND` is accepted (95_test_vectors.md 2.4). -/
theorem test_draw_later_accepted_below_bound :
    let t := after (step (at1 .sampling 3 1 true (.offerSample 0x5555555555555556)))
    t.st = .done ∧ t.rsp = 1 ∧ t.lo = 2 := by decide
/-- The host is given the response and the unit is free (R148). -/
theorem test_respond :
    let t := after (step { at1 .failed 0 0 false .takeResponse with rsp := 7 })
    t.st = .idle ∧ t.received = [7] ∧ t.rsp = 7 := by decide
/-- Reset in `Sampling`: `ST` and `THRV` only (95_test_vectors.md 3.3). -/
theorem test_reset_in_sampling :
    let t := after (step (at1 .sampling 5 1 true { Edge.reset with rnd := some 9 }))
    t.st = .idle ∧ t.thrv = false ∧ t.thr = 1 ∧ t.bound = 5 ∧ t.hi = 0 := by decide
/-- A stalled edge transfers nothing; an output already up is not lowered by it (R217). -/
theorem test_stalled_edge_waits :
    (after (step (at1 .sampling 5 0 false { Edge.offerSample 1 with stall := true }))).st = .sampling := by decide
theorem test_raised_output_ignores_stall :
    (after (step { at1 .sampling 5 0 false { Edge.offerSample 1 with stall := true } with raised := true })).st = .done := by
  decide
/-- The instruction that `withFetchWord` places is the one the next step runs. -/
theorem test_fetch_word_runs :
    (after (step (State.reset.withFetchWord 136 0x2_0000000000000000_000000000000000A))).rsp =
      0x0_FFFFFFFFFFFFFFF6_0000000000000006#130 := by decide

/-! Witnesses: hypotheses of the statements of Certificates/Slice0, met together. -/

/-- A unit in `Sampling` for bound 5, a first sample to come. -/
def first5 (x : Sample) : State := at1 .sampling 5 0 false (.offerSample x)

/-- A unit in `Sampling` for bound 5 whose first sample was rejected. -/
def later5 (x : Sample) : State := at1 .sampling 5 1 true (.offerSample x)

/-- A legal state in `Sampling` before its first draw, for any nonzero bound. -/
theorem legal_at1 (b : Word) (e : Edge) (h : b ≠ 0) : (at1 .sampling b 0 false e).Legal :=
  ⟨fun _ => h, fun _ h2 => (nomatch h2), fun _ h2 => (nomatch h2), fun h2 => (nomatch h2), fun h2 => (nomatch h2),
    fun _ h2 => (nomatch h2)⟩

theorem legal_later5 (x : Sample) : (later5 x).Legal :=
  ⟨fun _ => by change (5 : Word) ≠ 0; decide, fun _ _ => by change (1 : Word).toNat = 2 ^ 64 % (5 : Word).toNat; decide,
    fun _ _ => by change (0 : Word).toNat < (1 : Word).toNat; decide, fun h2 => (nomatch h2), fun h2 => (nomatch h2),
    fun _ h2 => (nomatch h2)⟩

theorem witness_ResetEventReturnsToIdle : ∃ (s : State) (e f : Edge) (rest : List Edge),
    s.inputs = e :: rest ∧ e.rst = true ∧ s.st = .failed ∧ f.rst = false ∧ f.stall = false :=
  ⟨at1 .failed 0 0 true .reset, .reset, .quiet, [], by decide⟩

theorem witness_StepRunsDecodedCommand : ∃ (s : State) (e : Edge) (rest : List Edge) (w : CommandWord),
    s.inputs = e :: rest ∧ s.cmdTransfer e = some w ∧ decode w = .mulw 3 7 :=
  ⟨at1 .idle 0 0 false (.offerCommand 0x1_0000000000000007_0000000000000003), _, _,
    0x1_0000000000000007_0000000000000003, rfl, by decide, by decide⟩

/-- Each port's transfer at an edge, for an output up late and for one that stalls after it is up (O4 has no hypotheses). -/
theorem witness_CommandTransferCondition : ∃ s t u : State, ∃ e f g : Edge, s.cmdTransfer e = some 5 ∧ e.stall = false ∧
    t.rndTransfer f = some 9 ∧ t.raised = true ∧ f.stall = true ∧ u.rspTransfer g = true :=
  ⟨State.reset, { first5 0 with raised := true }, at1 .failed 0 0 false .takeResponse, .offerCommand 5,
    { Edge.offerSample 9 with stall := true }, .takeResponse, by decide⟩

theorem witness_MulwCompletes : ∃ s : State, s.st = .idle := ⟨State.reset, by decide⟩

theorem witness_ThreshCompletes : ∃ (s : State) (b : Word), s.st = .idle ∧ b ≠ 0 :=
  ⟨State.reset, 0xFFFFFFFFFFFFFFFF, by decide⟩

theorem witness_GenAcceptStep : ∃ (s : State) (b c : Word), s.st = .idle ∧ b ≠ 0 ∧ c = 0 := ⟨State.reset, 1, 0, by decide⟩

theorem witness_ErrorEntryWritesResponseOnly : ∃ s : State, s.st = .idle ∧ s.bound ≠ 0 := ⟨at1 .idle 7 0 true .quiet, by decide⟩

theorem witness_BusyUnitHoldsCommandOff : ∃ s t u : State, s.st ≠ .idle ∧ t.st ≠ .idle ∧ u.st ≠ .idle ∧
    s.st = .sampling ∧ t.st = .done ∧ u.st = .failed :=
  ⟨first5 0, at1 .done 0 0 false .quiet, at1 .failed 0 0 false .quiet, by decide⟩

theorem witness_ErrorsExactlyByOperand : ∃ s t u v : State, s.st = .idle ∧ exec (.thresh 0) s = .next t ∧
    exec .illegal s = .next u ∧ exec (.thresh 1) s = .next v :=
  ⟨State.reset, _, _, _, rfl, rfl, rfl, rfl⟩

theorem witness_FirstSampleFastPath : ∃ (s : State) (e : Edge) (rest : List Edge) (x : Sample), s.inputs = e :: rest ∧
    s.rndTransfer e = some x ∧ s.thrv = false ∧ s.bound.toNat ≤ x.toNat * s.bound.toNat % 2 ^ 64 ∧
    s.bound.toNat = x.toNat * s.bound.toNat % 2 ^ 64 :=
  ⟨first5 1, .offerSample 1, [], 1, by decide⟩

theorem witness_FirstSampleSlowPath_accepts : ∃ (s : State) (e : Edge) (rest : List Edge) (x : Sample),
    s.inputs = e :: rest ∧ s.rndTransfer e = some x ∧ s.thrv = false ∧
    x.toNat * s.bound.toNat % 2 ^ 64 < s.bound.toNat ∧ 2 ^ 64 % s.bound.toNat = x.toNat * s.bound.toNat % 2 ^ 64 :=
  ⟨at1 .sampling 3 0 false (.offerSample 0xAAAAAAAAAAAAAAAB), .offerSample 0xAAAAAAAAAAAAAAAB, [], 0xAAAAAAAAAAAAAAAB, by decide⟩

theorem witness_FirstSampleSlowPath_rejects : ∃ (s : State) (e : Edge) (rest : List Edge) (x : Sample),
    s.inputs = e :: rest ∧ s.rndTransfer e = some x ∧ s.thrv = false ∧
    x.toNat * s.bound.toNat % 2 ^ 64 < s.bound.toNat ∧ x.toNat * s.bound.toNat % 2 ^ 64 < 2 ^ 64 % s.bound.toNat :=
  ⟨first5 0, .offerSample 0, [], 0, by decide⟩

theorem witness_LaterSampleTestsThreshold_accepts : ∃ (s : State) (e : Edge) (rest : List Edge) (x : Sample),
    s.inputs = e :: rest ∧ s.rndTransfer e = some x ∧ s.thrv = true ∧ s.thr.toNat = x.toNat * s.bound.toNat % 2 ^ 64 :=
  ⟨at1 .sampling 3 1 true (.offerSample 0xAAAAAAAAAAAAAAAB), .offerSample 0xAAAAAAAAAAAAAAAB, [], 0xAAAAAAAAAAAAAAAB, by decide⟩

theorem witness_LaterSampleTestsThreshold_rejects : ∃ (s : State) (e : Edge) (rest : List Edge) (x : Sample),
    s.inputs = e :: rest ∧ s.rndTransfer e = some x ∧ s.thrv = true ∧
    x.toNat * s.bound.toNat % 2 ^ 64 < s.thr.toNat :=
  ⟨later5 0, .offerSample 0, [], 0, by decide⟩

theorem witness_RespondHandsOverResponse_taken : ∃ (s t : State) (e : Edge) (rest : List Edge), s.inputs = e :: rest ∧
    s.rspTransfer e = true ∧ t.inputs = e :: rest ∧ t.rspTransfer e = true ∧ s.st = .done ∧ t.st = .failed :=
  ⟨at1 .done 0 0 false .takeResponse, at1 .failed 0 0 false .takeResponse, .takeResponse, [], by decide⟩

theorem witness_RespondHandsOverResponse_left : ∃ (s : State) (e : Edge) (rest : List Edge), s.inputs = e :: rest ∧
    (s.st = .done ∨ s.st = .failed) ∧ e.rst = false ∧ s.rspTransfer e = false :=
  ⟨at1 .done 0 0 false (.offerCommand 0), .offerCommand 0, [], by decide⟩

theorem witness_EdgeWithoutTransferChangesNothing : ∃ (s : State) (e : Edge) (rest : List Edge), s.inputs = e :: rest ∧
    e.rst = false ∧ s.cmdTransfer e = none ∧ s.rndTransfer e = none ∧ s.rspTransfer e = false ∧ e.cmd ≠ none :=
  ⟨first5 0 |>.dropEdge [.offerCommand 0], .offerCommand 0, [], by decide⟩

theorem witness_UnansweredOutputStaysUp : ∃ (s t : State) (e f : Edge) (rest : List Edge), s.inputs = e :: f :: rest ∧
    e.rst = false ∧ f.rst = false ∧ s.cmdTransfer e = none ∧ s.rndTransfer e = none ∧ s.rspTransfer e = false ∧
    step s = .next t ∧ s.rspValid e = true ∧ f.stall = true :=
  ⟨(at1 .done 0 0 false .quiet).dropEdge [.quiet, { Edge.takeResponse with stall := true }], _, .quiet,
    { Edge.takeResponse with stall := true }, [], rfl, rfl, rfl, rfl, rfl, rfl, rfl, rfl, rfl⟩

theorem witness_UnansweredOutputStaysUp_other_ports : ∃ (s t s' t' : State) (e f : Edge) (rest : List Edge),
    s.inputs = e :: f :: rest ∧ s'.inputs = e :: f :: rest ∧ e.rst = false ∧ f.rst = false ∧
    s.cmdTransfer e = none ∧ s.rndTransfer e = none ∧ s.rspTransfer e = false ∧
    s'.cmdTransfer e = none ∧ s'.rndTransfer e = none ∧ s'.rspTransfer e = false ∧
    step s = .next t ∧ step s' = .next t' ∧ s.cmdReady e = true ∧ s'.rndReady e = true :=
  ⟨State.reset.dropEdge [.quiet, .quiet], _, (first5 0).dropEdge [.quiet, .quiet], _, .quiet, .quiet, [],
    rfl, rfl, rfl, rfl, rfl, rfl, rfl, rfl, rfl, rfl, rfl, rfl, rfl, rfl⟩

theorem witness_ControlTransitionsAreTheTable : ∃ (s t : State) (e : Edge) (rest : List Edge), s.inputs = e :: rest ∧ step s = .next t :=
  ⟨first5 0, _, _, _, rfl, rfl⟩

theorem witness_RegistersWrittenOnlyByTheirSteps : ∃ (s t u v : State) (e f : Edge), s.inputs = [e] ∧
    step s = .next t ∧ t.bound ≠ s.bound ∧ u.inputs = [f] ∧ step u = .next v ∧ v.thr ≠ u.thr ∧ v.thrv ≠ u.thrv ∧
    v.rsp ≠ u.rsp ∧ (v.hi ≠ u.hi ∨ v.lo ≠ u.lo) :=
  ⟨at1 .idle 0 0 false (.offerCommand 5), _, first5 0x3333333333333334, _, .offerCommand 5,
    .offerSample 0x3333333333333334, rfl, rfl, by decide, rfl, rfl, by decide, by decide, by decide, by decide⟩

theorem witness_RegistersWrittenOnlyByTheirSteps_thrv_cleared : ∃ (s t u v : State) (e f : Edge), s.inputs = [e] ∧
    step s = .next t ∧ t.thrv ≠ s.thrv ∧ t.thrv = false ∧ e.rst = true ∧ u.inputs = [f] ∧ step u = .next v ∧
    v.thrv ≠ u.thrv ∧ v.thrv = false ∧ f.rst = false :=
  ⟨at1 .sampling 5 1 true .reset, _, at1 .idle 5 1 true (.offerCommand 7), _, .reset, .offerCommand 7,
    rfl, rfl, by decide, rfl, rfl, rfl, rfl, by decide, rfl, rfl⟩

theorem witness_ResponsesGivenOnlyByRespond : ∃ (s t u v : State) (e f : Edge), s.inputs = [e] ∧ step s = .next t ∧
    s.rspTransfer e = true ∧ u.inputs = [f] ∧ step u = .next v ∧ u.rspTransfer f = false :=
  ⟨at1 .done 0 0 false .takeResponse, _, first5 0, _, .takeResponse, .offerSample 0, rfl, rfl, by decide, rfl, rfl, by decide⟩

theorem witness_EveryStepKeepsLegal : ∃ s t : State, s.Legal ∧ step s = .next t ∧ s.st = .sampling ∧ s.thrv = true :=
  ⟨later5 0, _, legal_later5 0, rfl, rfl, rfl⟩

theorem witness_GenResultBelowBound : ∃ (s t : State) (e : Edge) (rest : List Edge) (x : Sample),
    s.inputs = e :: rest ∧ s.rndTransfer e = some x ∧ s.bound ≠ 0 ∧ step s = .next t ∧ t.st = .done :=
  ⟨first5 1, _, .offerSample 1, [], 1, rfl, by decide, by decide, rfl, by decide⟩

theorem witness_OneAcceptanceCondition : ∃ (s t : State) (e : Edge) (rest : List Edge) (x : Sample), s.Legal ∧
    s.inputs = e :: rest ∧ s.rndTransfer e = some x ∧ step s = .next t ∧ accepts s.bound.toNat x = true :=
  ⟨later5 1, _, .offerSample 1, [], 1, legal_later5 1, rfl, by decide, rfl, by decide⟩

theorem witness_OneAcceptanceCondition_rejected : ∃ (s t : State) (e : Edge) (rest : List Edge) (x : Sample), s.Legal ∧
    s.inputs = e :: rest ∧ s.rndTransfer e = some x ∧ step s = .next t ∧ accepts s.bound.toNat x = false :=
  ⟨first5 0, _, .offerSample 0, [], 0, legal_at1 5 _ (by decide), rfl, by decide, rfl, by decide⟩

theorem witness_AlgorithmEqualsSimpleLoop : ∃ b : Nat, 0 < b ∧ b < 2 ^ 64 ∧ 2 ^ 64 % b ≠ 0 := ⟨2 ^ 64 - 1, by decide⟩

/-- The second block of 95_test_vectors.md 2.4: `GEN 5` with two rejected samples. -/
theorem witness_GenRefinesAlgorithm : ∃ (s : State) (b : Word) (xs : List Sample) (tail : List Edge), s.st = .idle ∧
    b ≠ 0 ∧ s.inputs = Edge.offerCommand (encode (.gen b)) :: (xs.map Edge.offerSample ++ tail) ∧
    generate b.toNat xs = some (4, []) :=
  ⟨State.reset.dropEdge [.offerCommand 5, .offerSample 0, .offerSample 0, .offerSample 0xFFFFFFFFFFFFFFFF], 5,
    [0, 0, 0xFFFFFFFFFFFFFFFF], [], by decide⟩

theorem witness_GenRefinesAlgorithm_unfinished : ∃ (s : State) (b : Word) (xs : List Sample) (tail : List Edge),
    s.st = .idle ∧ b ≠ 0 ∧ s.inputs = Edge.offerCommand (encode (.gen b)) :: (xs.map Edge.offerSample ++ tail) ∧
    generate b.toNat xs = none ∧ xs ≠ [] :=
  ⟨State.reset.dropEdge [.offerCommand 5, .offerSample 0], 5, [0], [], by decide⟩

theorem witness_GenRefinesAlgorithm_zero : ∃ (s : State) (b : Word) (xs : List Sample) (tail : List Edge),
    s.st = .idle ∧ b = 0 ∧ s.inputs = Edge.offerCommand (encode (.gen b)) :: (xs.map Edge.offerSample ++ tail) ∧ xs ≠ [] :=
  ⟨State.reset.dropEdge [.offerCommand 0, .offerSample 7], 0, [7], [], by decide⟩

theorem witness_AlgorithmStopsAtFirstAccepted : ∃ (b : Nat) (before : List Sample) (x : Sample), 0 < b ∧ b < 2 ^ 64 ∧
    (∀ y ∈ before, accepts b y = false) ∧ accepts b x = true ∧ before.length = 2 :=
  ⟨6, [0x2AAAAAAAAAAAAAAB, 0x8000000000000000], 0x8000000000000001, by decide, by decide,
    List.forall_mem_cons.2 ⟨by decide, List.forall_mem_singleton.2 (by decide)⟩, by decide, rfl⟩

/-- The last block of 95_test_vectors.md 2.4. -/
theorem witness_GenOperationGivesOneResponse : ∃ (s : State) (b : Word) (xs : List Sample) (v : Nat) (rest : List Edge),
    s.st = .idle ∧ b ≠ 0 ∧ generate b.toNat xs = some (v, []) ∧
    s.inputs = Edge.offerCommand (encode (.gen b)) :: (xs.map Edge.offerSample ++ Edge.takeResponse :: rest) ∧
    v = 0xFFFFFFFFFFFFFFFE :=
  ⟨State.reset.dropEdge
      [.offerCommand 0xFFFFFFFFFFFFFFFF, .offerSample 0, .offerSample 0xFFFFFFFFFFFFFFFF, .takeResponse],
    0xFFFFFFFFFFFFFFFF, [0, 0xFFFFFFFFFFFFFFFF], 0xFFFFFFFFFFFFFFFE, [], rfl, by decide, by decide, rfl, rfl⟩

theorem witness_AcceptedSamplesAreUniform : ∃ b v : Nat, 0 < b ∧ b < 2 ^ 64 ∧ v < b := ⟨10000, 9999, by decide⟩

theorem witness_RejectedSamplesCounted : ∃ b : Nat, 0 < b ∧ b < 2 ^ 64 ∧ b = 2 ^ 63 + 1 := ⟨2 ^ 63 + 1, by decide⟩

theorem witness_SlowPathEnteredByBoundSamples : ∃ b : Nat, 0 < b ∧ b < 2 ^ 64 ∧ b = 1 := ⟨1, by decide⟩

theorem witness_ConstantZeroSourceNeverEnds : ∃ (s : State) (b : Word) (k : Nat) (tail : List Edge), s.st = .idle ∧
    2 ^ 64 % b.toNat ≠ 0 ∧ b ≠ 0 ∧
    s.inputs = Edge.offerCommand (encode (.gen b)) :: (List.replicate k (Edge.offerSample 0) ++ tail) ∧ k = 3 :=
  ⟨State.reset.dropEdge [.offerCommand 5, .offerSample 0, .offerSample 0, .offerSample 0], 5, 3, [], by decide⟩

theorem witness_LargestSampleAlwaysAccepted : ∃ (s : State) (e : Edge) (rest : List Edge), s.Legal ∧
    s.inputs = e :: rest ∧ s.rndTransfer e = some (BitVec.allOnes 64) :=
  ⟨later5 (BitVec.allOnes 64), .offerSample (BitVec.allOnes 64), [], legal_later5 _, rfl, by decide⟩

theorem witness_PowerOfTwoNeverRejects : ∃ (s : State) (e : Edge) (rest : List Edge) (x : Sample) (k : Nat), s.Legal ∧
    s.inputs = e :: rest ∧ s.rndTransfer e = some x ∧ k ≤ 63 ∧ s.bound.toNat = 2 ^ k ∧ k = 63 :=
  ⟨at1 .sampling 0x8000000000000000 0 false (.offerSample 2), .offerSample 2, [], 2, 63,
    legal_at1 0x8000000000000000 _ (by decide), rfl, by decide, by decide, rfl, rfl⟩

theorem witness_PowerOfTwoNeverRejects_one : ∃ (s : State) (e : Edge) (rest : List Edge) (x : Sample) (k : Nat), s.Legal ∧
    s.inputs = e :: rest ∧ s.rndTransfer e = some x ∧ k ≤ 63 ∧ s.bound.toNat = 2 ^ k ∧ k = 0 :=
  ⟨at1 .sampling 1 0 false (.offerSample 2), .offerSample 2, [], 2, 0, legal_at1 1 _ (by decide), rfl, by decide,
    by decide, by decide, rfl⟩

theorem witness_GenProductEqualsMulw : ∃ (s t u v : State) (e : Edge) (rest : List Edge) (x : Sample),
    s.inputs = e :: rest ∧ s.rndTransfer e = some x ∧ step s = .next t ∧ u.st = .idle ∧
    exec (.mulw x s.bound) u = .next v :=
  ⟨first5 0xDEADBEEFCAFEBABE, _, State.reset, _, .offerSample 0xDEADBEEFCAFEBABE, [], 0xDEADBEEFCAFEBABE,
    rfl, by decide, rfl, rfl, rfl⟩

theorem witness_GenThresholdEqualsThresh_computed : ∃ (s t u v : State) (e : Edge) (rest : List Edge) (x : Sample),
    s.inputs = e :: rest ∧ s.rndTransfer e = some x ∧ s.bound ≠ 0 ∧ step s = .next t ∧ u.st = .idle ∧
    exec (.thresh s.bound) u = .next v ∧ s.thrv = false ∧ t.lo.toNat < s.bound.toNat :=
  ⟨first5 0, _, State.reset, _, .offerSample 0, [], 0, rfl, by decide, by decide, rfl, rfl, rfl, rfl, by decide⟩

theorem witness_GenThresholdEqualsThresh_kept : ∃ (s t u v : State) (e : Edge) (rest : List Edge) (x : Sample),
    s.inputs = e :: rest ∧ s.rndTransfer e = some x ∧ s.bound ≠ 0 ∧ step s = .next t ∧ u.st = .idle ∧
    exec (.thresh s.bound) u = .next v ∧ s.thrv = false ∧ s.bound.toNat ≤ t.lo.toNat :=
  ⟨first5 1, _, State.reset, _, .offerSample 1, [], 1, rfl, by decide, by decide, rfl, rfl, rfl, rfl, by decide⟩

theorem witness_GenThresholdEqualsThresh_later : ∃ (s t u v : State) (e : Edge) (rest : List Edge) (x : Sample),
    s.inputs = e :: rest ∧ s.rndTransfer e = some x ∧ s.bound ≠ 0 ∧ step s = .next t ∧ u.st = .idle ∧
    exec (.thresh s.bound) u = .next v ∧ s.thrv = true :=
  ⟨later5 0, _, State.reset, _, .offerSample 0, [], 0, rfl, by decide, by decide, rfl, rfl, rfl, rfl⟩

theorem witness_OperationsAreStateless : ∃ s t : State, s.st = .idle ∧ s.samePorts t ∧ s.bound ≠ t.bound ∧ s.thrv ≠ t.thrv :=
  ⟨at1 .idle 5 1 true (.offerCommand 7), at1 .idle 0 0 false (.offerCommand 7), rfl, ⟨rfl, rfl, rfl, rfl⟩, by decide, by decide⟩

/-- A unit that has just accepted `GEN 5`: the source holds its first sample while the unit is still computing, the sample is
taken, nothing is offered for an edge, and the second sample is taken at an edge that stalls, the output being up. -/
theorem witness_LatencyChangesNoResult : ∃ (s t : State) (fast slow : List Edge), Stretched t fast ∧ s.sameUnit t ∧
    s.inputs = fast ∧ t.inputs = slow ∧ slow.length = 4 ∧ fast.length = 2 ∧ t.raised = false ∧ t.st = .sampling :=
  ⟨(first5 0).dropEdge [.offerSample 0, .offerSample 1],
    (first5 0).dropEdge
      [{ Edge.offerSample 0 with stall := true }, .offerSample 0, .quiet, { Edge.offerSample 1 with stall := true }], _, _,
    .hold _ _ _ _ _ rfl ⟨rfl, rfl, rfl⟩ rfl
      (.keep _ _ (.offerSample 0) false _ _ rfl rfl (.inr (.inr rfl)) rfl
        (.gap _ _ _ _ _ rfl ⟨rfl, fun _ => rfl, fun _ => rfl, fun _ => rfl⟩ rfl
          (.keep _ _ (.offerSample 1) true _ _ rfl rfl (.inr (.inl rfl)) rfl (.nil _ rfl)))),
    ⟨rfl, rfl, rfl, rfl, rfl, rfl, rfl, rfl⟩, rfl, rfl, rfl, rfl, rfl, rfl⟩

theorem witness_ZeroBoundDrawsNothing : ∃ (s : State) (e : Edge) (es : List Edge) (w : CommandWord), s.inputs = e :: es ∧
    s.cmdTransfer e = some w ∧ decode w = .gen 0 ∧ (∀ f ∈ es, f.rst = false ∧ f.rspReady = false) ∧ es.length = 2 :=
  ⟨State.reset.dropEdge [.offerCommand 0, .offerSample 7, .offerSample 8], .offerCommand 0, [.offerSample 7, .offerSample 8], 0,
    rfl, by decide, by decide, by decide, rfl⟩

theorem witness_DrawlessOperationGivesOneResponse : ∃ (s : State) (i : Instr) (rest : List Edge), s.st = .idle ∧
    (∀ b, b ≠ 0 → i ≠ .gen b) ∧ s.inputs = Edge.offerCommand (encode i) :: Edge.takeResponse :: rest ∧ i = .gen 0 :=
  ⟨State.reset.dropEdge [.offerCommand 0, .takeResponse], .gen 0, [], rfl,
    fun b hb h => hb (by injection h with h; exact h.symm), by decide, rfl⟩

theorem witness_FourPartProductAgrees : ∃ (x y : Word) (x1 x0 y1 y0 : Nat), x1 < 2 ^ 32 ∧ x0 < 2 ^ 32 ∧ y1 < 2 ^ 32 ∧
    y0 < 2 ^ 32 ∧ x.toNat = x1 * 2 ^ 32 + x0 ∧ y.toNat = y1 * 2 ^ 32 + y0 ∧ x1 * y0 + x0 * y1 ≥ 2 ^ 64 :=
  ⟨0xFFFFFFFFFFFFFFFF, 0xFFFFFFFFFFFFFFFF, 2 ^ 32 - 1, 2 ^ 32 - 1, 2 ^ 32 - 1, 2 ^ 32 - 1, by decide⟩

theorem witness_ThresholdFormsAgree : ∃ b : Word, b ≠ 0 ∧ b.toNat = 2 ^ 64 - 1 := ⟨0xFFFFFFFFFFFFFFFF, by decide⟩

theorem witness_ThresholdRange : ∃ b c : Word, b ≠ 0 ∧ 2 ^ 63 < b.toNat ∧ c ≠ 0 ∧ c.toNat = 2 ^ 63 :=
  ⟨0x8000000000000001, 0x8000000000000000, by decide⟩

theorem witness_TruncationIsModulo : ∃ r : Nat, r < 2 ^ 64 ∧ r + 1 = 2 ^ 64 := ⟨2 ^ 64 - 1, by decide⟩

theorem witness_ProductLaws : ∃ (x y z : Word) (k : Nat), 0 < y.toNat ∧ 0 < x.toNat ∧ k ≤ 63 ∧ y.toNat = 2 ^ k ∧
    (wmul z z).high.toNat = 2 ^ 64 - 2 :=
  ⟨3, 0x8000000000000000, 0xFFFFFFFFFFFFFFFF, 63, by decide⟩

theorem witness_DecodeOfEncode : ∃ i : Instr, i.wellFormed = true := ⟨.mulw 0xFFFFFFFFFFFFFFFF 1, by decide⟩

theorem witness_AssemblerLinesEncode : ∃ b x y n : Nat, b < 2 ^ 64 ∧ x < 2 ^ 64 ∧ y < 2 ^ 64 ∧ n < 2 ^ 130 ∧ x + 1 = 2 ^ 64 ∧
    n = 3 * 2 ^ 128 :=
  ⟨5, 2 ^ 64 - 1, 0, 3 * 2 ^ 128, by decide⟩

theorem witness_UnusedFieldsIgnored : ∃ (op : BitVec 2) (opb opb' : Word), op = 3 ∧ opb ≠ opb' := ⟨3, 0, 1, by decide⟩

end Sys2Proof.Tests
end

section
/-! The two registers whose value after reset the spec fixes (spec/10_state.md R35). The zeros the model holds in the
unspecified registers (log 1) have no lemma here, so that no later proof comes to rest on them. -/

namespace Sys2Proof.Machine

@[simp] theorem State.reset_st : State.reset.st = .idle := rfl

@[simp] theorem State.reset_thrv : State.reset.thrv = false := rfl

/-- Settles O1: the values of the two registers that R35 fixes. -/
theorem resetStateIsIdle : Obligations.ResetStateIsIdle :=
  ⟨State.reset_st, State.reset_thrv⟩

end Sys2Proof.Machine
end

section
/-! The command word read back through its packed fields (spec/30_encoding.md R71): one equation of the decoder per value
of `op`. Each right-hand side names only the fields its operation uses. -/

namespace Sys2Proof

@[simp] theorem decode_commandWord_gen (opb opa : Word) : decode (commandWord 0 opb opa) = .gen opa := by
  simp [decode]

@[simp] theorem decode_commandWord_mulw (opb opa : Word) : decode (commandWord 1 opb opa) = .mulw opa opb := by
  simp [decode]

@[simp] theorem decode_commandWord_thresh (opb opa : Word) : decode (commandWord 2 opb opa) = .thresh opa := by
  simp [decode]

@[simp] theorem decode_commandWord_illegal (opb opa : Word) : decode (commandWord 3 opb opa) = .illegal := by
  simp [decode]

/-- Settles O46: by the decoder's equation at each `op`, two words that differ in unused fields decode to one term. -/
theorem unusedFieldsIgnored : Obligations.UnusedFieldsIgnored := by
  intro op opb opb' opa opa'
  refine ⟨?gen, ?mulw, ?thresh, ?illegal⟩
  case gen =>
    rintro rfl
    exact ⟨decode_commandWord_gen opb opa, by simp only [decode_commandWord_gen]⟩
  case mulw =>
    rintro rfl
    exact decode_commandWord_mulw opb opa
  case thresh =>
    rintro rfl
    exact ⟨decode_commandWord_thresh opb opa, by simp only [decode_commandWord_thresh]⟩
  case illegal =>
    rintro rfl
    exact ⟨decode_commandWord_illegal opb opa, by simp only [decode_commandWord_illegal]⟩

end Sys2Proof
end

section
/-! The response word as a number and as its reader sees it (spec/30_encoding.md R76, R77). -/

namespace Sys2Proof.Machine

/-- Putting one bit vector above another is adding it at the weight of the lower one's width: their bits do not overlap. -/
theorem toNat_append_eq_add {m n : Nat} (a : BitVec m) (b : BitVec n) :
    (a ++ b).toNat = a.toNat * 2 ^ n + b.toNat := by
  rw [BitVec.toNat_append, ← Nat.shiftLeft_add_eq_or_of_lt b.isLt, Nat.shiftLeft_eq]

theorem packResponse_toNat (c : BitVec 2) (r1 r0 : Word) :
    (packResponse c r1 r0).toNat = c.toNat * 2 ^ 128 + r1.toNat * 2 ^ 64 + r0.toNat := by
  rw [packResponse, toNat_append_eq_add, toNat_append_eq_add]
  omega

/-- A word whose status field is the code of an outcome is read as that outcome and the two data fields. -/
theorem readResponse_of_code {w : ResponseWord} {o : Status} (h : statusOf w = o.code) :
    readResponse w = some ⟨o, r1Of w, r0Of w⟩ := by
  cases o with
  | ok => simp [readResponse, h, Status.code]
  | invalidBound => simp [readResponse, h, Status.code]
  | illegalOp => simp [readResponse, h, Status.code]

theorem readResponse_of_reserved {w : ResponseWord} (h : statusOf w = 3) : readResponse w = none := by
  simp [readResponse, h]

/-- The three codes and the reserved value are all the values of the status field (R77). -/
theorem code_or_reserved (c : BitVec 2) : (∃ o : Status, c = o.code) ∨ c = 3 := by
  have values : ∀ c : BitVec 2, c = 0 ∨ c = 1 ∨ c = 2 ∨ c = 3 := by decide
  obtain h | h | h | h := values c
  · exact .inl ⟨.ok, h⟩
  · exact .inl ⟨.invalidBound, h⟩
  · exact .inl ⟨.illegalOp, h⟩
  · exact .inr h

theorem readResponse_eq_none_iff (w : ResponseWord) : readResponse w = none ↔ statusOf w = 3 := by
  refine ⟨fun hnone => ?_, readResponse_of_reserved⟩
  obtain ⟨o, hcode⟩ | hreserved := code_or_reserved (statusOf w)
  · simp [readResponse_of_code hcode] at hnone
  · exact hreserved

@[simp] theorem readResponse_responseWord (o : Status) (r1 r0 : Word) :
    readResponse (responseWord o r1 r0) = some ⟨o, r1, r0⟩ := by
  simpa using readResponse_of_code (statusOf_response o r1 r0)

/-- Settles O47: the value of a packed word and its reading, with the reserved status as the only one without a reading. -/
theorem responseWordsReadBack : Obligations.ResponseWordsReadBack :=
  ⟨fun o r1 r0 => ⟨readResponse_responseWord o r1 r0, packResponse_toNat o.code r1 r0⟩, readResponse_eq_none_iff⟩

end Sys2Proof.Machine
end

section
/-! What the next edge does for each port's transfer (spec/20_memory.md R51): the step of the machine as the operation it
runs, on the state with that edge used up and the output lowered. -/

namespace Sys2Proof.Machine

variable {s : State} {e : Edge} {rest : List Edge}

/-- The state on which the operation of a transfer acts: the edge is used up and the output is lowered. -/
def State.atTransfer (s : State) (rest : List Edge) : State := (s.dropEdge rest).lowerOutput

theorem step_command {w : CommandWord} (hin : s.inputs = e :: rest) (hw : s.cmdTransfer e = some w) :
    step s = exec (decode w) (s.atTransfer rest) :=
  (step_cons hin).trans (clockEdge_command hw)

theorem step_sample {x : Sample} {t : State} (hin : s.inputs = e :: rest) (hx : s.rndTransfer e = some x)
    (hdraw : draw x (s.atTransfer rest) = t) : step s = .next t :=
  hdraw ▸ (step_cons hin).trans (clockEdge_sample hx)

theorem step_response (hin : s.inputs = e :: rest) (hp : s.rspTransfer e = true) :
    step s = .next (s.atTransfer rest).respond :=
  (step_cons hin).trans (clockEdge_response hp)

theorem step_wait (hin : s.inputs = e :: rest) (hr : e.rst = false) (hc : s.cmdTransfer e = none)
    (hx : s.rndTransfer e = none) (hp : s.rspTransfer e = false) :
    step s = .next ((s.dropEdge rest).waitEdge e) :=
  (step_cons hin).trans (clockEdge_wait hr hc hx hp)

theorem cmdTransfer_of_ne_idle (h : s.st ≠ .idle) (e : Edge) : s.cmdTransfer e = none := by
  simp [State.cmdTransfer, State.cmdReady, h]

theorem rndTransfer_of_ne_sampling (h : s.st ≠ .sampling) (e : Edge) : s.rndTransfer e = none := by
  simp [State.rndTransfer, State.rndReady, h]

/-- Settles O14: a response transfer runs `respond`; without one, `Done` and `Failed` serve neither of the other ports, so
the edge only waits. -/
theorem respondHandsOverResponse : Obligations.RespondHandsOverResponse := by
  intro s e rest hin
  refine ⟨fun hp => ?taken, fun hst hr hp => ?left⟩
  case taken =>
    obtain ⟨_, _, hst, _⟩ := rspTransfer_true.1 hp
    exact ⟨hst, step_response hin hp⟩
  case left =>
    have hidle : s.st ≠ .idle := by rcases hst with h | h <;> simp [h]
    have hsampling : s.st ≠ .sampling := by rcases hst with h | h <;> simp [h]
    have hc := cmdTransfer_of_ne_idle hidle e
    have hx := rndTransfer_of_ne_sampling hsampling e
    exact ⟨hc, _, step_wait hin hr hc hx hp, rfl, rfl, rfl⟩

end Sys2Proof.Machine
end

section
/-! `accept` of `GEN` (spec/42_rejection_sampler.md R142): one equation per value of the operand's check. -/

namespace Sys2Proof.Machine

variable {s : State} {b : Word}

theorem whenIdle_of_idle (h : s.st = .idle) (accepted : Result) : whenIdle s accepted = accepted :=
  if_pos h

theorem exec_gen_nonzero (hst : s.st = .idle) (hb : b ≠ 0) : exec (.gen b) s = .next (s.startSampling b) := by
  simp only [exec, execGen, whenIdle_of_idle hst, (boundValid_eq b).2 hb, if_true]

theorem exec_gen_zero (hst : s.st = .idle) : exec (.gen 0) s = .next (s.raiseError .invalidBound) := by
  simp only [exec, execGen, whenIdle_of_idle hst, (boundValid_eq_false 0).2 rfl, Bool.false_eq_true, if_false]

/-- Settles O7: the two equations of `accept`, with the fields of the error word read back. -/
theorem genAcceptStep : Obligations.GenAcceptStep := by
  intro s b hst
  refine ⟨fun hb => exec_gen_nonzero hst hb, ?zero⟩
  case zero =>
    rintro rfl
    exact ⟨responseWord .invalidBound 0 0, exec_gen_zero hst, statusOf_response _ _ _, r1Of_response _ _ _,
      r0Of_response _ _ _⟩

end Sys2Proof.Machine
end

section
/-! The step `draw` (spec/42_rejection_sampler.md R143 to R147): one equation per outcome of its tests, the tests stated on
the low half of the product as a number. -/

namespace Sys2Proof.Machine

variable {s : State} {x : Sample}

theorem wmul_low_eq_lowOf (x : Sample) (b : Word) : (wmul x b).low.toNat = lowOf b.toNat x :=
  wmul_low_toNat x b

theorem wmul_high_eq_highOf (x : Sample) (b : Word) : (wmul x b).high.toNat = highOf b.toNat x :=
  wmul_high_toNat x b

/-- A low half below the bound says that the bound is not zero, so its threshold has a value. -/
theorem thr_toNat_of_low_lt {b : Word} (h : lowOf b.toNat x < b.toNat) : (thr b).toNat = 2 ^ 64 % b.toNat :=
  thr_toNat (by rintro rfl; exact absurd h (Nat.not_lt_zero _))

theorem draw_first_fast (hv : s.thrv = false) (hlow : s.bound.toNat ≤ lowOf s.bound.toNat x) :
    draw x s = (s.setProduct (wmul x s.bound)).finish 0 (wmul x s.bound).high := by
  have hpass : passesBound (wmul x s.bound).low s.bound = true := by simpa [lowOf] using hlow
  simp [draw, hv, hpass]

/-- A first sample that fails the test against the bound is left to the slow path. -/
theorem draw_first_slow (hv : s.thrv = false) (hlow : lowOf s.bound.toNat x < s.bound.toNat) :
    draw x s = slowPath (wmul x s.bound) (s.setProduct (wmul x s.bound)) := by
  have hfail : passesBound (wmul x s.bound).low s.bound = false := by simpa [lowOf] using hlow
  simp [draw, hv, hfail]

theorem draw_first_slow_accept (hv : s.thrv = false) (hlow : lowOf s.bound.toNat x < s.bound.toNat)
    (hacc : 2 ^ 64 % s.bound.toNat ≤ lowOf s.bound.toNat x) :
    draw x s = ((s.setProduct (wmul x s.bound)).setThreshold (thr s.bound)).finish 0 (wmul x s.bound).high := by
  have hpass : passesThreshold (wmul x s.bound).low (thr s.bound) = true := by
    rwa [passesThreshold_eq, thr_toNat_of_low_lt hlow, wmul_low_eq_lowOf]
  simp [draw_first_slow hv hlow, slowPath, hpass]

theorem draw_first_slow_reject (hv : s.thrv = false) (hlow : lowOf s.bound.toNat x < s.bound.toNat)
    (hrej : lowOf s.bound.toNat x < 2 ^ 64 % s.bound.toNat) :
    draw x s = (s.setProduct (wmul x s.bound)).setThreshold (thr s.bound) := by
  have hfail : passesThreshold (wmul x s.bound).low (thr s.bound) = false := by
    rwa [passesThreshold_eq_false, thr_toNat_of_low_lt hlow, wmul_low_eq_lowOf]
  simp [draw_first_slow hv hlow, slowPath, hfail]

theorem draw_later_accept (hv : s.thrv = true) (hacc : s.thr.toNat ≤ lowOf s.bound.toNat x) :
    draw x s = (s.setProduct (wmul x s.bound)).finish 0 (wmul x s.bound).high := by
  have hpass : passesThreshold (wmul x s.bound).low s.thr = true := by
    rwa [passesThreshold_eq, wmul_low_eq_lowOf]
  simp [draw, hv, hpass]

theorem draw_later_reject (hv : s.thrv = true) (hrej : lowOf s.bound.toNat x < s.thr.toNat) :
    draw x s = s.setProduct (wmul x s.bound) := by
  have hfail : passesThreshold (wmul x s.bound).low s.thr = false := by
    rwa [passesThreshold_eq_false, wmul_low_eq_lowOf]
  simp [draw, hv, hfail]

/-- Settles O11: the fast path of `draw` writes the product and the response, and no threshold. -/
theorem firstSampleFastPath : Obligations.FirstSampleFastPath := by
  intro s e rest x hin hx hv hlow
  exact ⟨_, _, _, step_sample hin hx (draw_first_fast hv hlow), wmul_high_toNat x s.bound,
    wmul_low_toNat x s.bound, statusOf_response _ _ _, r1Of_response _ _ _, r0Of_response _ _ _⟩

/-- Settles O12: on the slow path the threshold is written in both cases, and decides which of the two it is. -/
theorem firstSampleSlowPath : Obligations.FirstSampleSlowPath := by
  intro s e rest x hin hx hv hlow
  refine ⟨(wmul x s.bound).high, (wmul x s.bound).low, thr s.bound, wmul_high_toNat x s.bound,
    wmul_low_toNat x s.bound, thr_toNat_of_low_lt hlow, fun hacc => ?accept, fun hrej => ?reject⟩
  case accept =>
    exact ⟨_, statusOf_response _ _ _, r1Of_response _ _ _, r0Of_response _ _ _,
      step_sample hin hx (draw_first_slow_accept hv hlow hacc)⟩
  case reject =>
    exact step_sample hin hx (draw_first_slow_reject hv hlow hrej)

end Sys2Proof.Machine
end

section
/-! The algorithm (spec/42_rejection_sampler.md R141) one sample at a time. The slow path tests the first sample as the loop
tests every later one, so it enters the loop with that sample still to test. -/

namespace Sys2Proof.Machine

variable {b t : Nat} {x : Sample}

theorem redraw_accept (h : t ≤ lowOf b x) (xs : List Sample) : redraw b t (x :: xs) = some (highOf b x, xs) :=
  if_pos h

theorem redraw_reject (h : lowOf b x < t) (xs : List Sample) : redraw b t (x :: xs) = redraw b t xs :=
  if_neg (Nat.not_le.2 h)

theorem generate_fast (h : b ≤ lowOf b x) (xs : List Sample) : generate b (x :: xs) = some (highOf b x, xs) :=
  if_pos h

theorem generate_slow (h : lowOf b x < b) (xs : List Sample) :
    generate b (x :: xs) = redraw b (2 ^ 64 % b) (x :: xs) :=
  if_neg (Nat.not_le.2 h)

end Sys2Proof.Machine
end

section
/-! `GEN` on the machine is the algorithm (spec/42_rejection_sampler.md R141): a unit in `Sampling` that is offered samples
at edges without stall or gap does what `redraw` and `generate` say of those samples. -/

namespace Sys2Proof.Machine

/-- The unit has ended a `GEN` with result `v` (R147). -/
structure State.HoldsResult (t : State) (v : Nat) : Prop where
  st : t.st = .done
  status : statusOf t.rsp = 0
  r1 : r1Of t.rsp = 0
  r0 : (r0Of t.rsp).toNat = v

/-- What the unit in state `s` does with the samples `xs`, offered one at each of the next edges, is what the algorithm
answers for them: a result with the samples left, or none. -/
def State.DrawsAs (s : State) (xs : List Sample) (tail : List Edge) : Option (Nat × List Sample) → Prop
  | some (v, left) => ∃ (n : Nat) (t : State), n + left.length = xs.length ∧
      Host.Core.run Sys2Proof.core n s = .next t ∧ t.HoldsResult v ∧
      t.inputs = left.map Edge.offerSample ++ tail ∧ t.received = s.received
  | none => ∃ t : State, Host.Core.run Sys2Proof.core xs.length s = .next t ∧
      t.st = .sampling ∧ t.bound = s.bound ∧ t.inputs = tail ∧ t.received = s.received

variable {s t : State} {x : Sample} {xs : List Sample} {tail : List Edge}

theorem finish_highOf_holdsResult (s : State) (x : Sample) (b : Word) :
    (s.finish 0 (wmul x b).high).HoldsResult (highOf b.toNat x) where
  st := rfl
  status := statusOf_response _ _ _
  r1 := r1Of_response _ _ _
  r0 := by rw [State.finish_rsp, r0Of_response, wmul_high_eq_highOf]

theorem drawsAs_nil (hst : s.st = .sampling) (hin : s.inputs = tail) : s.DrawsAs [] tail none :=
  ⟨s, run_zero s, hst, rfl, hin, rfl⟩

/-- An accepted sample ends the `GEN` and leaves the samples after it. -/
theorem drawsAs_accept {v : Nat} (hstep : step s = .next t) (hres : t.HoldsResult v)
    (hin : t.inputs = xs.map Edge.offerSample ++ tail) (hrec : t.received = s.received) :
    s.DrawsAs (x :: xs) tail (some (v, xs)) :=
  ⟨1, t, Nat.add_comm 1 xs.length, run_succ 0 hstep, hres, hin, hrec⟩

/-- After a rejected sample the unit goes on with the samples after it. -/
theorem drawsAs_reject {r : Option (Nat × List Sample)} (hstep : step s = .next t) (hb : t.bound = s.bound)
    (hrec : t.received = s.received) (h : t.DrawsAs xs tail r) : s.DrawsAs (x :: xs) tail r := by
  cases r with
  | some r =>
    obtain ⟨n, u, hn, hrun, hres, hin, hu⟩ := h
    exact ⟨n + 1, u, by rw [List.length_cons, ← hn, Nat.add_right_comm], (run_succ n hstep).trans hrun, hres, hin,
      hu.trans hrec⟩
  | none =>
    obtain ⟨u, hrun, hst, hbound, hin, hu⟩ := h
    exact ⟨u, (run_succ xs.length hstep).trans hrun, hst, hbound.trans hb, hin, hu.trans hrec⟩

/-- The edge at which a unit in `Sampling` is offered a sample. -/
theorem step_offerSample {rest : List Edge} (hst : s.st = .sampling) (hin : s.inputs = Edge.offerSample x :: rest)
    (hdraw : draw x (s.atTransfer rest) = t) : step s = .next t :=
  step_sample hin (rndTransfer_some.2 ⟨rfl, .inr rfl, hst, rfl⟩) hdraw

/-- The loop (R146): with the threshold in `THR`, the unit does what `redraw` says. -/
theorem drawsAs_redraw (xs : List Sample) (tail : List Edge) (s : State) (hst : s.st = .sampling)
    (hv : s.thrv = true) (hin : s.inputs = xs.map Edge.offerSample ++ tail) :
    s.DrawsAs xs tail (redraw s.bound.toNat s.thr.toNat xs) := by
  induction xs generalizing s with
  | nil => exact drawsAs_nil hst hin
  | cons x xs ih =>
    rcases Nat.lt_or_ge (lowOf s.bound.toNat x) s.thr.toNat with hrej | hacc
    · have hstep := step_offerSample hst hin (draw_later_reject hv hrej)
      rw [redraw_reject hrej]
      exact drawsAs_reject hstep rfl rfl (ih _ hst hv rfl)
    · have hstep := step_offerSample hst hin (draw_later_accept hv hacc)
      rw [redraw_accept hacc]
      exact drawsAs_accept hstep (finish_highOf_holdsResult _ x s.bound) rfl rfl

/-- Before the first sample (R144, R145) the unit does what `generate` says; a rejected first sample
leaves it in the loop. -/
theorem drawsAs_generate (xs : List Sample) (tail : List Edge) (s : State) (hst : s.st = .sampling)
    (hv : s.thrv = false) (hin : s.inputs = xs.map Edge.offerSample ++ tail) :
    s.DrawsAs xs tail (generate s.bound.toNat xs) := by
  cases xs with
  | nil => exact drawsAs_nil hst hin
  | cons x xs =>
    rcases Nat.lt_or_ge (lowOf s.bound.toNat x) s.bound.toNat with hslow | hfast
    · rw [generate_slow hslow]
      rcases Nat.lt_or_ge (lowOf s.bound.toNat x) (2 ^ 64 % s.bound.toNat) with hrej | hacc
      · have hstep := step_offerSample hst hin (draw_first_slow_reject hv hslow hrej)
        rw [redraw_reject hrej, ← thr_toNat_of_low_lt hslow]
        exact drawsAs_reject hstep rfl rfl (drawsAs_redraw xs tail _ hst rfl rfl)
      · have hstep := step_offerSample hst hin (draw_first_slow_accept hv hslow hacc)
        rw [redraw_accept hacc]
        exact drawsAs_accept hstep (finish_highOf_holdsResult _ x s.bound) rfl rfl
    · have hstep := step_offerSample hst hin (draw_first_fast hv hfast)
      rw [generate_fast hfast]
      exact drawsAs_accept hstep (finish_highOf_holdsResult _ x s.bound) rfl rfl

/-- The edge at which a unit in `Idle` is offered `GEN b`. -/
theorem step_offerGen {b : Word} {rest : List Edge} (hst : s.st = .idle)
    (hin : s.inputs = Edge.offerCommand (encode (.gen b)) :: rest) :
    step s = exec (.gen b) (s.atTransfer rest) := by
  have hdec : decode (encode (.gen b)) = .gen b := decode_commandWord_gen 0 b
  rw [step_command hin (cmdTransfer_some.2 ⟨rfl, .inr rfl, hst, rfl⟩), hdec]

/-- Settles O27: the command's edge puts the unit in `Sampling` with `THRV = 0`, and from there it does what `generate`
says; a zero bound raises its error at the command's edge. -/
theorem genRefinesAlgorithm : Obligations.GenRefinesAlgorithm := by
  intro s b xs tail hst hin
  have hstep := step_offerGen hst hin
  split
  case isTrue hb =>
    subst hb
    exact ⟨_, hstep.trans (exec_gen_zero hst), rfl, statusOf_response _ _ _, rfl, rfl⟩
  case isFalse hb =>
    have hstart := hstep.trans (exec_gen_nonzero hst hb)
    have hdrawsAs := drawsAs_generate xs tail _ (State.startSampling_st _ b) (State.startSampling_thrv _ b)
      (State.startSampling_inputs (s.atTransfer (xs.map Edge.offerSample ++ tail)) b)
    rw [State.startSampling_bound] at hdrawsAs
    split
    case h_1 v left hgen =>
      rw [hgen] at hdrawsAs
      obtain ⟨n, t, hn, hrun, hres, hrest, hrec⟩ := hdrawsAs
      have hdraws : xs.length - left.length = n := by omega
      refine ⟨t, ?_, hres.st, hres.status, hres.r1, hres.r0, hrest, hrec⟩
      rw [hdraws, Nat.add_comm, run_succ n hstart, hrun]
    case h_2 hgen =>
      rw [hgen] at hdrawsAs
      obtain ⟨t, hrun, hsampling, hbound, hrest, hrec⟩ := hdrawsAs
      refine ⟨t, ?_, hsampling, hbound, hrest, hrec⟩
      rw [Nat.add_comm, run_succ xs.length hstart, hrun]

end Sys2Proof.Machine
end

section
/-! Raising an error (spec/60_exceptions.md R183): one equation for each of the other two commands that raise one, beside
`exec_gen_zero`, and the fields of the word that every cause writes. -/

namespace Sys2Proof.Machine

variable {s : State}

theorem exec_thresh_zero (hst : s.st = .idle) : exec (.thresh 0) s = .next (s.raiseError .invalidBound) := by
  simp only [exec, execThresh, whenIdle_of_idle hst, (boundValid_eq_false 0).2 rfl, Bool.false_eq_true, if_false]

theorem exec_illegal (hst : s.st = .idle) : exec .illegal s = .next (s.raiseError .illegalOp) :=
  whenIdle_of_idle hst _

/-- An error word carries its cause's code and no data. -/
theorem raiseError_rsp_fields (s : State) (c : Cause) :
    statusOf (s.raiseError c).rsp = c.status.code ∧ r1Of (s.raiseError c).rsp = 0 ∧ r0Of (s.raiseError c).rsp = 0 := by
  simp only [State.raiseError_rsp, statusOf_response, r1Of_response, r0Of_response, and_self]

/-- Settles O8: each of the three commands is one `raiseError`, which writes `RSP` and `ST` only; `GEN 0` and `THRESH 0`
raise the same cause and so write the same word. -/
theorem errorEntryWritesResponseOnly : Obligations.ErrorEntryWritesResponseOnly := by
  intro s hst
  refine ⟨⟨(s.raiseError .invalidBound).rsp, ?gen, ?thresh, ?invalidBoundWord⟩,
    (s.raiseError .illegalOp).rsp, ?illegal, ?illegalOpWord⟩
  case gen => exact exec_gen_zero hst
  case thresh => exact exec_thresh_zero hst
  case invalidBoundWord => exact raiseError_rsp_fields s .invalidBound
  case illegal => exact exec_illegal hst
  case illegalOpWord => exact raiseError_rsp_fields s .illegalOp

end Sys2Proof.Machine
end

section
/-! The reset event (spec/70_reset_and_hazards.md R210): the edge with `rst = 1`, and the first edge after it at which the
unit's output can be up again. -/

namespace Sys2Proof.Machine

variable {s : State} {e : Edge} {rest : List Edge}

/-- Under `rst` no output is up, not even one raised at an earlier edge. -/
theorem outputUp_of_rst (hr : e.rst = true) : s.outputUp e = false := by
  simp [State.outputUp, hr]

/-- Without `rst` and without a stall the output is up, raised earlier or not. -/
theorem outputUp_of_no_stall (hr : e.rst = false) (hs : e.stall = false) : s.outputUp e = true := by
  simp [State.outputUp, hr, hs]

/-- A port's ready or valid signal is never up unless the output of the control state is. -/
theorem portSignals_of_output_down (h : s.outputUp e = false) :
    s.cmdReady e = false ∧ s.rndReady e = false ∧ s.rspValid e = false := by
  simp only [State.cmdReady, State.rndReady, State.rspValid, h, Bool.false_and, and_self]

theorem cmdReady_of_idle (hst : s.st = .idle) (hup : s.outputUp e = true) : s.cmdReady e = true := by
  simp [State.cmdReady, hst, hup]

theorem clockEdge_reset (hr : e.rst = true) : clockEdge e s = .next s.resetEvent :=
  if_pos hr

theorem step_reset (hin : s.inputs = e :: rest) (hr : e.rst = true) :
    step s = .next (s.dropEdge rest).resetEvent :=
  (step_cons hin).trans (clockEdge_reset hr)

/-- Settles O2: `rst` keeps every output down and has priority in the step, which is then `resetEvent`; its state is in
`Idle`, so the next output to come up is `cmd_ready`. -/
theorem resetEventReturnsToIdle : Obligations.ResetEventReturnsToIdle := by
  intro s e rest hin hr
  refine ⟨?outputs, ?step, fun f hfr hfs => ?accepts⟩
  case outputs => exact portSignals_of_output_down (outputUp_of_rst hr)
  case step => exact step_reset hin hr
  case accepts => exact cmdReady_of_idle rfl (outputUp_of_no_stall hfr hfs)

end Sys2Proof.Machine
end

section
/-! Encoding and decoding (spec/30_encoding.md R71, R73, R81): the word of each instruction, the instruction of each word
by its `op`, and the words of the assembler lines as numbers. -/

namespace Sys2Proof

/-- The decoder undoes the encoder, operand by operand. -/
@[simp] theorem decode_encode (i : Instr) : decode (encode i) = i := by
  cases i with
  | gen b => exact decode_commandWord_gen 0 b
  | mulw x y => exact decode_commandWord_mulw y x
  | thresh b => exact decode_commandWord_thresh 0 b
  | illegal => exact decode_commandWord_illegal 0 0

/-- Settles O44: by the decoder's equation at the `op` each instruction is encoded under. -/
theorem decodeOfEncode : Obligations.DecodeOfEncode :=
  fun i _ => decode_encode i

theorem op_cases (op : BitVec 2) : op = 0 ∨ op = 1 ∨ op = 2 ∨ op = 3 := by
  revert op; decide

/-- Two command words are equal exactly when their fields are. -/
theorem commandWord_inj {op op' : BitVec 2} {b b' a a' : Word} :
    commandWord op b a = commandWord op' b' a' ↔ op = op' ∧ b = b' ∧ a = a' := by
  refine ⟨fun h => ⟨?op, ?opb, ?opa⟩, fun ⟨hop, hb, ha⟩ => by rw [hop, hb, ha]⟩
  case op => simpa using congrArg commandOp h
  case opb => simpa using congrArg commandOpb h
  case opa => simpa using congrArg commandOpa h

theorem encode_gen (b : Word) : encode (.gen b) = commandWord 0 0 b := rfl

theorem encode_mulw (x y : Word) : encode (.mulw x y) = commandWord 1 y x := rfl

theorem encode_thresh (b : Word) : encode (.thresh b) = commandWord 2 0 b := rfl

theorem encode_illegal : encode .illegal = commandWord 3 0 0 := rfl

/-- The canonical words of a one-operand operation, `GEN` or `THRESH`: `opb` is unused. -/
theorem canonical_commandWord_of_unary {op : BitVec 2} (h : op = 0 ∨ op = 2) (opb opa : Word) :
    canonical (commandWord op opb opa) = true ↔ opb = 0 := by
  rcases h with rfl | rfl <;> simp [canonical]

theorem canonical_commandWord_mulw (opb opa : Word) : canonical (commandWord 1 opb opa) = true := by
  simp [canonical]

theorem canonical_commandWord_illegal (opb opa : Word) :
    canonical (commandWord 3 opb opa) = true ↔ opb = 0 ∧ opa = 0 := by
  simp [canonical]

/-- A word packed from its fields is the encoder's exactly when the fields its `op` does not use are zero. -/
theorem encode_decode_commandWord (op : BitVec 2) (opb opa : Word) :
    encode (decode (commandWord op opb opa)) = commandWord op opb opa ↔
      canonical (commandWord op opb opa) = true := by
  obtain rfl | rfl | rfl | rfl := op_cases op
  · rw [decode_commandWord_gen, encode_gen, commandWord_inj, canonical_commandWord_of_unary (.inl rfl)]
    exact ⟨fun ⟨_, hb, _⟩ => hb.symm, fun hb => ⟨rfl, hb.symm, rfl⟩⟩
  · simp only [decode_commandWord_mulw, encode_mulw, canonical_commandWord_mulw]
  · rw [decode_commandWord_thresh, encode_thresh, commandWord_inj, canonical_commandWord_of_unary (.inr rfl)]
    exact ⟨fun ⟨_, hb, _⟩ => hb.symm, fun hb => ⟨rfl, hb.symm, rfl⟩⟩
  · rw [decode_commandWord_illegal, encode_illegal, commandWord_inj, canonical_commandWord_illegal]
    exact ⟨fun ⟨_, hb, ha⟩ => ⟨hb.symm, ha.symm⟩, fun ⟨hb, ha⟩ => ⟨rfl, hb.symm, ha.symm⟩⟩

/-- Settles O45: every word is packed from its fields. -/
theorem encodeOfDecodeIffCanonical : Obligations.EncodeOfDecodeIffCanonical := by
  intro w
  simpa only [commandWord_fields] using encode_decode_commandWord (commandOp w) (commandOpb w) (commandOpa w)

theorem commandWord_toNat (op : BitVec 2) (opb opa : Word) :
    (commandWord op opb opa).toNat = op.toNat * 2 ^ 128 + opb.toNat * 2 ^ 64 + opa.toNat := by
  rw [commandWord, Machine.toNat_append_eq_add, Machine.toNat_append_eq_add]
  omega

/-- Settles O42: each word is packed from the fields that R81 names. -/
theorem writtenWordsDecode : Obligations.WrittenWordsDecode :=
  ⟨decode_commandWord_gen 0 5, decode_commandWord_mulw 7 3, decode_commandWord_thresh 0 10,
    decode_commandWord_illegal 7 5⟩

theorem operandFits_iff (n : Nat) : operandFits n = true ↔ n < 2 ^ 64 := by
  simp [operandFits]

theorem wordFits_iff (n : Nat) : wordFits n = true ↔ n < 2 ^ 130 := by
  simp [wordFits]

theorem line_encode_eq_none_iff (l : Line) : l.encode = none ↔ l.wellFormed = false := by
  cases h : l.wellFormed <;> simp [Line.encode, h]

theorem toNat_ofNat_of_lt {width n : Nat} (h : n < 2 ^ width) : (BitVec.ofNat width n).toNat = n :=
  (BitVec.toNat_ofNat n width).trans (Nat.mod_eq_of_lt h)

variable {b x y n : Nat}

theorem line_encode_gen (hb : b < 2 ^ 64) : (Line.gen b).encode = some (encode (.gen (BitVec.ofNat 64 b))) :=
  if_pos ((operandFits_iff b).2 hb)

theorem line_encode_mulw (hx : x < 2 ^ 64) (hy : y < 2 ^ 64) :
    (Line.mulw x y).encode = some (encode (.mulw (BitVec.ofNat 64 x) (BitVec.ofNat 64 y))) :=
  if_pos (Bool.and_eq_true_iff.2 ⟨(operandFits_iff x).2 hx, (operandFits_iff y).2 hy⟩)

theorem line_encode_thresh (hb : b < 2 ^ 64) :
    (Line.thresh b).encode = some (encode (.thresh (BitVec.ofNat 64 b))) :=
  if_pos ((operandFits_iff b).2 hb)

theorem line_encode_word (hn : n < 2 ^ 130) : (Line.word n).encode = some (BitVec.ofNat 130 n) :=
  if_pos ((wordFits_iff n).2 hn)

theorem encode_gen_toNat (w : Word) : (encode (.gen w)).toNat = w.toNat := by
  simp [encode_gen, commandWord_toNat]

theorem encode_mulw_toNat (v w : Word) : (encode (.mulw v w)).toNat = 2 ^ 128 + w.toNat * 2 ^ 64 + v.toNat := by
  simp [encode_mulw, commandWord_toNat]

theorem encode_thresh_toNat (w : Word) : (encode (.thresh w)).toNat = 2 * 2 ^ 128 + w.toNat := by
  simp [encode_thresh, commandWord_toNat]

/-- Settles O43: a line whose numbers fit has the encoder's word of its instruction, whose value is that of its fields. -/
theorem assemblerLinesEncode : Obligations.AssemblerLinesEncode := by
  refine ⟨line_encode_eq_none_iff, fun b hb => ?gen, fun x y hx hy => ?mulw, fun b hb => ?thresh, fun n hn => ?word,
    line_encode_gen (by decide), line_encode_mulw (by decide) (by decide), line_encode_thresh (by decide)⟩
  case gen => exact ⟨_, line_encode_gen hb, by rw [encode_gen_toNat, toNat_ofNat_of_lt hb], decode_encode _⟩
  case mulw =>
    have hvalue := encode_mulw_toNat (BitVec.ofNat 64 x) (BitVec.ofNat 64 y)
    rw [toNat_ofNat_of_lt hx, toNat_ofNat_of_lt hy] at hvalue
    exact ⟨_, line_encode_mulw hx hy, hvalue, decode_encode _⟩
  case thresh => exact ⟨_, line_encode_thresh hb, by rw [encode_thresh_toNat, toNat_ofNat_of_lt hb], decode_encode _⟩
  case word => exact ⟨_, line_encode_word hn, toNat_ofNat_of_lt hn⟩

end Sys2Proof
end

section
/-! What a step can do, as relations between the state before and the state after: the `accept` step of a command, the step
`draw`, and one clock edge, a constructor per end of each. Every claim about all steps is a case split over these. -/

namespace Sys2Proof.Machine

variable {s t : State} {e : Edge} {rest : List Edge}

/-- The ends of the `accept` step of an instruction in `Idle`. -/
inductive AcceptStep (s : State) : Instr → State → Prop where
  | gen (b : Word) (hb : b ≠ 0) : AcceptStep s (.gen b) (s.startSampling b)
  | genZero : AcceptStep s (.gen 0) (s.raiseError .invalidBound)
  | mulw (x y : Word) : AcceptStep s (.mulw x y) (s.finish (wmul x y).high (wmul x y).low)
  | thresh (b : Word) (hb : b ≠ 0) : AcceptStep s (.thresh b) (s.finish (neg64 b) (thr b))
  | threshZero : AcceptStep s (.thresh 0) (s.raiseError .invalidBound)
  | illegal : AcceptStep s .illegal (s.raiseError .illegalOp)

/-- In `Idle` every instruction has an `accept` step. -/
theorem exists_acceptStep (i : Instr) (hst : s.st = .idle) : ∃ t, exec i s = .next t ∧ AcceptStep s i t := by
  obtain ⟨hbusy, _⟩ | ⟨_, hend⟩ := exec_cases i s
  · exact absurd hst hbusy
  · obtain ⟨b, rfl, hb, h⟩ | ⟨rfl, h⟩ | ⟨x, y, rfl, h⟩ | ⟨b, rfl, hb, h⟩ | ⟨rfl, h⟩ | ⟨rfl, h⟩ := hend
    · exact ⟨_, h, .gen b hb⟩
    · exact ⟨_, h, .genZero⟩
    · exact ⟨_, h, .mulw x y⟩
    · exact ⟨_, h, .thresh b hb⟩
    · exact ⟨_, h, .threshZero⟩
    · exact ⟨_, h, .illegal⟩

theorem acceptStep_of_exec {i : Instr} (hst : s.st = .idle) (h : exec i s = .next t) : AcceptStep s i t := by
  obtain ⟨u, hu, hstep⟩ := exists_acceptStep i hst
  cases hu.symm.trans h
  exact hstep

/-- The ends of the step `draw` with sample `x`, with the tests of R144 to R146 on numbers. -/
inductive DrawStep (s : State) (x : Sample) : State → Prop where
  | fast (hv : s.thrv = false) (hlow : s.bound.toNat ≤ lowOf s.bound.toNat x) :
      DrawStep s x ((s.setProduct (wmul x s.bound)).finish 0 (wmul x s.bound).high)
  | slowAccept (hv : s.thrv = false) (hlow : lowOf s.bound.toNat x < s.bound.toNat)
      (hacc : 2 ^ 64 % s.bound.toNat ≤ lowOf s.bound.toNat x) :
      DrawStep s x (((s.setProduct (wmul x s.bound)).setThreshold (thr s.bound)).finish 0 (wmul x s.bound).high)
  | slowReject (hv : s.thrv = false) (hlow : lowOf s.bound.toNat x < s.bound.toNat)
      (hrej : lowOf s.bound.toNat x < 2 ^ 64 % s.bound.toNat) :
      DrawStep s x ((s.setProduct (wmul x s.bound)).setThreshold (thr s.bound))
  | laterAccept (hv : s.thrv = true) (hacc : s.thr.toNat ≤ lowOf s.bound.toNat x) :
      DrawStep s x ((s.setProduct (wmul x s.bound)).finish 0 (wmul x s.bound).high)
  | laterReject (hv : s.thrv = true) (hrej : lowOf s.bound.toNat x < s.thr.toNat) :
      DrawStep s x (s.setProduct (wmul x s.bound))

theorem drawStep_draw (s : State) (x : Sample) : DrawStep s x (draw x s) := by
  cases hv : s.thrv with
  | false =>
    rcases Nat.lt_or_ge (lowOf s.bound.toNat x) s.bound.toNat with hlow | hlow
    · rcases Nat.lt_or_ge (lowOf s.bound.toNat x) (2 ^ 64 % s.bound.toNat) with hrej | hacc
      · exact draw_first_slow_reject hv hlow hrej ▸ .slowReject hv hlow hrej
      · exact draw_first_slow_accept hv hlow hacc ▸ .slowAccept hv hlow hacc
    · exact draw_first_fast hv hlow ▸ .fast hv hlow
  | true =>
    rcases Nat.lt_or_ge (lowOf s.bound.toNat x) s.thr.toNat with hrej | hacc
    · exact draw_later_reject hv hrej ▸ .laterReject hv hrej
    · exact draw_later_accept hv hacc ▸ .laterAccept hv hacc

/-- What one clock edge can do (R149): reset, one of the three transfers, or none. -/
inductive EdgeStep (s : State) (e : Edge) (rest : List Edge) : State → Prop where
  | reset (hr : e.rst = true) : EdgeStep s e rest (s.dropEdge rest).resetEvent
  | command (w : CommandWord) (i : Instr) (t : State) (hw : s.cmdTransfer e = some w) (hi : decode w = i)
      (haccept : AcceptStep (s.atTransfer rest) i t) : EdgeStep s e rest t
  | sample (x : Sample) (t : State) (hx : s.rndTransfer e = some x)
      (hdraw : DrawStep (s.atTransfer rest) x t) : EdgeStep s e rest t
  | response (hp : s.rspTransfer e = true) : EdgeStep s e rest (s.atTransfer rest).respond
  | wait (hr : e.rst = false) (hc : s.cmdTransfer e = none) (hx : s.rndTransfer e = none)
      (hp : s.rspTransfer e = false) : EdgeStep s e rest ((s.dropEdge rest).waitEdge e)

theorem st_of_cmdTransfer {w : CommandWord} (h : s.cmdTransfer e = some w) : s.st = .idle :=
  (cmdTransfer_some.1 h).2.2.1

theorem st_of_rndTransfer {x : Sample} (h : s.rndTransfer e = some x) : s.st = .sampling :=
  (rndTransfer_some.1 h).2.2.1

theorem st_of_rspTransfer (h : s.rspTransfer e = true) : s.st = .done ∨ s.st = .failed :=
  (rspTransfer_true.1 h).2.2.1

/-- An edge to come has a step, which is one of the five. -/
theorem exists_edgeStep (hin : s.inputs = e :: rest) : ∃ t, step s = .next t ∧ EdgeStep s e rest t := by
  have hstep := step_cons hin
  obtain ⟨hr, h⟩ | ⟨w, hw, h⟩ | ⟨x, hx, h⟩ | ⟨hp, h⟩ | ⟨hr, hc, hx, hp, h⟩ := clockEdge_cases e (s.dropEdge rest)
  · exact ⟨_, hstep.trans h, .reset hr⟩
  · obtain ⟨t, ht, haccept⟩ := exists_acceptStep (s := s.atTransfer rest) (decode w) (st_of_cmdTransfer (s := s) hw)
    exact ⟨t, hstep.trans (h.trans ht), .command w _ t hw rfl haccept⟩
  · exact ⟨_, hstep.trans h, .sample x _ hx (drawStep_draw _ x)⟩
  · exact ⟨_, hstep.trans h, .response hp⟩
  · exact ⟨_, hstep.trans h, .wait hr hc hx hp⟩

theorem edgeStep_of_step (hin : s.inputs = e :: rest) (h : step s = .next t) : EdgeStep s e rest t := by
  obtain ⟨u, hu, hedge⟩ := exists_edgeStep hin
  cases hu.symm.trans h
  exact hedge

/-- A step at an edge that transfers a sample is a `draw` of it. -/
theorem drawStep_of_step {x : Sample} (hin : s.inputs = e :: rest) (hx : s.rndTransfer e = some x)
    (h : step s = .next t) : DrawStep (s.atTransfer rest) x t := by
  cases (step_sample hin hx rfl).symm.trans h
  exact drawStep_draw _ x

/-- Settles O18: past the last edge nothing happens, and every edge to come has one of the five steps. -/
theorem everyStepHasNextState : Obligations.EveryStepHasNextState := by
  intro s
  cases hin : s.inputs with
  | nil => exact ⟨s, step_nil hin⟩
  | cons e rest =>
    obtain ⟨t, ht, _⟩ := exists_edgeStep hin
    exact ⟨t, ht⟩

end Sys2Proof.Machine
end

section
/-! The laws R37 (a) to (d) of the reachable states, and R77: what each control state asks of a state for them to hold, and
that every step keeps them. -/

namespace Sys2Proof.Machine

variable {s t : State} {e : Edge} {rest : List Edge}

/-- No response the host has taken bears the reserved status (R77). -/
def State.ReceivedLegal (s : State) : Prop := ∀ w ∈ s.received, statusOf w ≠ 3

theorem legal_of_idle (hst : s.st = .idle) (hrec : s.ReceivedLegal) : s.Legal where
  sampling_bound h := nomatch hst.symm.trans h
  sampling_thr h := nomatch hst.symm.trans h
  sampling_lo h := nomatch hst.symm.trans h
  done_ok h := nomatch hst.symm.trans h
  failed_error h := nomatch hst.symm.trans h
  received_status := hrec

theorem legal_of_sampling (hst : s.st = .sampling) (hbound : s.bound ≠ 0)
    (hthr : s.thrv = true → s.thr.toNat = 2 ^ 64 % s.bound.toNat ∧ s.lo.toNat < s.thr.toNat)
    (hrec : s.ReceivedLegal) : s.Legal where
  sampling_bound _ := hbound
  sampling_thr _ hv := (hthr hv).1
  sampling_lo _ hv := (hthr hv).2
  done_ok h := nomatch hst.symm.trans h
  failed_error h := nomatch hst.symm.trans h
  received_status := hrec

theorem legal_of_done (hst : s.st = .done) (hstatus : statusOf s.rsp = 0) (hrec : s.ReceivedLegal) : s.Legal where
  sampling_bound h := nomatch hst.symm.trans h
  sampling_thr h := nomatch hst.symm.trans h
  sampling_lo h := nomatch hst.symm.trans h
  done_ok _ := hstatus
  failed_error h := nomatch hst.symm.trans h
  received_status := hrec

theorem legal_finish (s : State) (r1 r0 : Word) (hrec : s.ReceivedLegal) : (s.finish r1 r0).Legal :=
  legal_of_done rfl (statusOf_response _ _ _) hrec

theorem legal_raiseError (s : State) (c : Cause) (hrec : s.ReceivedLegal) : (s.raiseError c).Legal where
  sampling_bound h := nomatch h
  sampling_thr h := nomatch h
  sampling_lo h := nomatch h
  done_ok h := nomatch h
  failed_error _ := by
    obtain ⟨hstatus, hdata⟩ := raiseError_rsp_fields s c
    refine ⟨?_, hdata⟩
    rw [hstatus]
    cases c with
    | invalidBound => exact .inl rfl
    | illegalOp => exact .inr rfl
  received_status := hrec

/-- The laws speak of registers and of responses given only, not of what is to come at the ports. -/
theorem legal_of_sameUnit (h : s.sameUnit t) (hs : s.Legal) : t.Legal := by
  obtain ⟨hst, hbound, _, hlo, hthr, hthrv, hrsp, hrec⟩ := h
  constructor
  · exact hst ▸ hbound ▸ hs.sampling_bound
  · exact hst ▸ hthrv ▸ hthr ▸ hbound ▸ hs.sampling_thr
  · exact hst ▸ hthrv ▸ hthr ▸ hlo ▸ hs.sampling_lo
  · exact hst ▸ hrsp ▸ hs.done_ok
  · exact hst ▸ hrsp ▸ hs.failed_error
  · exact hrec ▸ hs.received_status

theorem sameUnit_atTransfer (s : State) (rest : List Edge) : s.sameUnit (s.atTransfer rest) :=
  ⟨rfl, rfl, rfl, rfl, rfl, rfl, rfl, rfl⟩

theorem sameUnit_wait (s : State) (rest : List Edge) (e : Edge) : s.sameUnit ((s.dropEdge rest).waitEdge e) :=
  ⟨rfl, rfl, rfl, rfl, rfl, rfl, rfl, rfl⟩

/-- Settles O22: the law of `Idle`, with no response taken. -/
theorem legalAtReset : Obligations.LegalAtReset :=
  legal_of_idle State.reset_st fun _ hw => nomatch hw

theorem legal_of_acceptStep {i : Instr} (hrec : s.ReceivedLegal) (h : AcceptStep s i t) : t.Legal := by
  cases h with
  | gen b hb => exact legal_of_sampling rfl hb (fun hv => nomatch hv) hrec
  | genZero => exact legal_raiseError s _ hrec
  | mulw x y => exact legal_finish s _ _ hrec
  | thresh b hb => exact legal_finish s _ _ hrec
  | threshZero => exact legal_raiseError s _ hrec
  | illegal => exact legal_raiseError s _ hrec

/-- A rejected sample leaves the threshold of the bound in `THR` and a low half below it in `LO`; an accepted one ends the
operation with `OK`. -/
theorem legal_of_drawStep {x : Sample} (hst : s.st = .sampling) (hs : s.Legal) (h : DrawStep s x t) : t.Legal := by
  have hbound := hs.sampling_bound hst
  have hrec := hs.received_status
  cases h with
  | fast | slowAccept | laterAccept => exact legal_finish _ _ _ hrec
  | slowReject _ hlow hrej =>
    refine legal_of_sampling hst hbound (fun _ => ?_) hrec
    have hthr := thr_toNat_of_low_lt hlow
    exact ⟨hthr, by rwa [State.setThreshold_lo, State.setProduct_lo, State.setThreshold_thr, hthr, wmul_low_eq_lowOf]⟩
  | laterReject hv hrej =>
    refine legal_of_sampling hst hbound (fun _ => ⟨hs.sampling_thr hst hv, ?_⟩) hrec
    rwa [State.setProduct_lo, wmul_low_eq_lowOf]

/-- The response on offer in `Done` or `Failed` has a status other than the reserved one. -/
theorem rsp_status_of_legal (hs : s.Legal) (hst : s.st = .done ∨ s.st = .failed) : statusOf s.rsp ≠ 3 := by
  rcases hst with hdone | hfailed
  · simp [hs.done_ok hdone]
  · obtain ⟨h1 | h2, _⟩ := hs.failed_error hfailed
    · simp [h1]
    · simp [h2]

theorem legal_respond (hs : s.Legal) (hst : s.st = .done ∨ s.st = .failed) : s.respond.Legal := by
  refine legal_of_idle rfl fun w hw => ?_
  rcases List.mem_append.1 hw with hold | hnew
  · exact hs.received_status w hold
  · exact List.mem_singleton.1 hnew ▸ rsp_status_of_legal hs hst

/-- Settles O23: each of the five steps of an edge keeps the laws. -/
theorem everyStepKeepsLegal : Obligations.EveryStepKeepsLegal := by
  intro s t hs hstep
  cases hin : s.inputs with
  | nil =>
    cases (step_nil hin).symm.trans hstep
    exact hs
  | cons e rest =>
    have htransfer := legal_of_sameUnit (sameUnit_atTransfer s rest) hs
    cases edgeStep_of_step hin hstep with
    | reset => exact legal_of_idle rfl hs.received_status
    | command w i _ _ _ haccept => exact legal_of_acceptStep htransfer.received_status haccept
    | sample x _ hx hdraw =>
      have hst : (s.atTransfer rest).st = .sampling := st_of_rndTransfer (s := s) hx
      exact legal_of_drawStep hst htransfer hdraw
    | response hp =>
      have hst : (s.atTransfer rest).st = .done ∨ (s.atTransfer rest).st = .failed := st_of_rspTransfer (s := s) hp
      exact legal_respond htransfer hst
    | wait => exact legal_of_sameUnit (sameUnit_wait s rest e) hs

end Sys2Proof.Machine
end

section
/-! The laws of the widening product (spec/40_widening_multiplier.md R102 to R105), on the halves as numbers. -/

namespace Sys2Proof.Machine

variable {x y : Word} {m n k : Nat}

/-- Settles O50: `trunc64` is reduction by its value as a number. -/
theorem truncationIsModulo : Obligations.TruncationIsModulo :=
  ⟨trunc64_toNat, fun r hr => (trunc64_toNat r).trans (Nat.mod_eq_of_lt hr), by decide, by decide, by decide⟩

theorem product_eq_of_toNat {p q : Product} (hhigh : p.high.toNat = q.high.toNat) (hlow : p.low.toNat = q.low.toNat) :
    p = q := by
  cases p; cases q
  exact congrArg₂ Product.mk (BitVec.eq_of_toNat_eq hhigh) (BitVec.eq_of_toNat_eq hlow)

theorem wmul_comm (x y : Word) : wmul x y = wmul y x :=
  product_eq_of_toNat (by simp only [wmul_high_toNat, Nat.mul_comm]) (by simp only [wmul_low_toNat, Nat.mul_comm])

theorem wmul_zero (x : Word) : wmul x 0 = ⟨0, 0⟩ :=
  product_eq_of_toNat (by simp) (by simp)

theorem wmul_one (x : Word) : wmul x 1 = ⟨0, x⟩ :=
  product_eq_of_toNat (by simp [Nat.div_eq_of_lt x.isLt]) (by simp [Nat.mod_eq_of_lt x.isLt])

theorem high_lt_right (hy : 0 < y.toNat) : (wmul x y).high.toNat < y.toNat := by
  rw [wmul_high_toNat]
  exact Nat.div_lt_of_lt_mul (Nat.mul_lt_mul_of_pos_right x.isLt hy)

theorem high_lt_left (hx : 0 < x.toNat) : (wmul x y).high.toNat < x.toNat :=
  wmul_comm y x ▸ high_lt_right hx

theorem high_le_pred_right (x y : Word) : (wmul x y).high.toNat ≤ y.toNat - 1 := by
  rcases Nat.eq_zero_or_pos y.toNat with h0 | hpos
  · simp [h0]
  · exact Nat.le_pred_of_lt (high_lt_right hpos)

theorem high_le_pred_left (x y : Word) : (wmul x y).high.toNat ≤ x.toNat - 1 :=
  wmul_comm y x ▸ high_le_pred_right y x

/-- The high half has its largest value only where both factors have theirs, being below each of them (R104 (d), (e)). -/
theorem high_eq_largest_iff :
    (wmul x y).high.toNat = 2 ^ 64 - 2 ↔ x.toNat = 2 ^ 64 - 1 ∧ y.toNat = 2 ^ 64 - 1 := by
  refine ⟨fun h => ?_, fun ⟨hx, hy⟩ => by norm_num [hx, hy]⟩
  have hleft := high_le_pred_left x y
  have hright := high_le_pred_right x y
  have hx := x.isLt
  have hy := y.isLt
  omega

theorem low_of_largest (h : (wmul x y).high.toNat = 2 ^ 64 - 2) : (wmul x y).low.toNat = 1 := by
  obtain ⟨hx, hy⟩ := high_eq_largest_iff.1 h
  norm_num [hx, hy]

theorem high_eq_zero_iff : (wmul x y).high = 0 ↔ x.toNat * y.toNat < 2 ^ 64 := by
  rw [← BitVec.toNat_inj, wmul_high_toNat]
  exact Nat.div_eq_zero_iff_lt (by decide)

/-- Multiplying by `2 ^ k` and taking the upper half shifts right by what is left of the 64 bits (R104 (g), R159). -/
theorem mul_two_pow_div (a : Nat) (hk : k ≤ 64) : a * 2 ^ k / 2 ^ 64 = a / 2 ^ (64 - k) := by
  rw [show 2 ^ 64 = 2 ^ (64 - k) * 2 ^ k by rw [← Nat.pow_add, Nat.sub_add_cancel hk]]
  exact Nat.mul_div_mul_right a _ (Nat.two_pow_pos k)

/-- Settles O48: the laws (a) to (g), in order. -/
theorem productLaws : Obligations.ProductLaws := by
  intro x y
  have hlargest : (wmul x y).high.toNat ≤ 2 ^ 64 - 2 := by
    have hle := high_le_pred_right x y
    have hy := y.isLt
    omega
  refine ⟨wmul_value x y, wmul_comm x y, ⟨wmul_zero x, wmul_one x⟩,
    ⟨hlargest, high_eq_largest_iff, low_of_largest⟩, ⟨high_lt_right, high_lt_left⟩, high_eq_zero_iff,
    fun k hk hy => ⟨?_, ?_⟩⟩
  · rw [wmul_high_toNat, hy, mul_two_pow_div _ (by omega)]
  · rw [wmul_low_toNat, hy]

theorem mul_lt_of_halves (hm : m < 2 ^ 32) (hn : n < 2 ^ 32) : m * n < 2 ^ 64 :=
  Nat.lt_of_lt_of_eq (Nat.mul_lt_mul'' hm hn) (by norm_num)

/-- Settles O49: the halves are the product, which is expanded. -/
theorem fourPartProductAgrees : Obligations.FourPartProductAgrees := by
  intro x y x1 x0 y1 y0 hx1 hx0 hy1 hy0 hx hy
  refine ⟨?_, mul_lt_of_halves hx1 hy1, mul_lt_of_halves hx1 hy0, mul_lt_of_halves hx0 hy1, mul_lt_of_halves hx0 hy0⟩
  rw [wmul_value, hx, hy]
  ring

end Sys2Proof.Machine
end

section
/-! Negation and the threshold (spec/41_modular_threshold.md R120 to R124). -/

namespace Sys2Proof.Machine

variable {b : Word} {n : Nat}

/-- Negation in a 64-bit word is the same for the unsigned and the signed reading of the pattern (R121). -/
theorem neg64_eq_neg_sgn (x : Word) : ((neg64 x).toNat : Int) = (-(sgn x)) % 2 ^ 64 := by
  have hx := x.isLt
  rw [neg64_toNat, sgn]
  split <;> omega

/-- Settles O51: the identity for every pattern, and its three named points. -/
theorem negationIdentity : Obligations.NegationIdentity :=
  ⟨neg64_eq_neg_sgn, by decide, by decide, by decide⟩

/-- Settles O52: from the first form to the second by the value of the negation, to the third as the two differ by the
divisor. -/
theorem thresholdFormsAgree : Obligations.ThresholdFormsAgree := by
  intro b hb
  have hneg : (neg64 b).toNat % b.toNat = (2 ^ 64 - b.toNat) % b.toNat := by rw [neg64_value hb]
  have hsub : (2 ^ 64 - b.toNat) % b.toNat = 2 ^ 64 % b.toNat := sub_mod_self_eq (Nat.le_of_lt b.isLt)
  exact ⟨(thr_toNat hb).trans (hneg.trans hsub).symm, hneg, hsub⟩

/-- A remainder of `2^64` by a number that fits in it at least once is below half of it (R124 (b), R156). -/
theorem threshold_lt_half (hpos : 0 < n) (hn : n < 2 ^ 64) : 2 ^ 64 % n < 2 ^ 63 := by
  have hlt : 2 ^ 64 % n < n := Nat.mod_lt _ hpos
  have hsub : 2 ^ 64 % n ≤ 2 ^ 64 - n := sub_mod_self_eq (Nat.le_of_lt hn) ▸ Nat.mod_le _ _
  omega

theorem threshold_of_large (hhalf : 2 ^ 63 < n) (hn : n < 2 ^ 64) : 2 ^ 64 % n = 2 ^ 64 - n := by
  rw [← sub_mod_self_eq (Nat.le_of_lt hn)]
  exact Nat.mod_eq_of_lt (by omega)

/-- The divisors of `2^64` below it are the powers of two. -/
theorem threshold_eq_zero_iff (hn : n < 2 ^ 64) : 2 ^ 64 % n = 0 ↔ ∃ k, k ≤ 63 ∧ n = 2 ^ k := by
  rw [← Nat.dvd_iff_mod_eq_zero, Nat.dvd_prime_pow Nat.prime_two]
  refine ⟨fun ⟨k, _, hk⟩ => ⟨k, ?_, hk⟩, fun ⟨k, hk, h⟩ => ⟨k, by omega, h⟩⟩
  have hlt : k < 64 := (Nat.pow_lt_pow_iff_right (by decide)).1 (hk ▸ hn)
  omega

/-- What is left of `2^64` after its remainder is the multiple of the divisor below it (R124 (d)). -/
theorem sub_threshold (n : Nat) : 2 ^ 64 - 2 ^ 64 % n = n * (2 ^ 64 / n) := by
  have h := Nat.div_add_mod (2 ^ 64) n
  omega

/-- Settles O53: the laws of the remainder, and the listed values by computing them. -/
theorem thresholdRange : Obligations.ThresholdRange := by
  refine ⟨fun b hb => ?laws, ?values⟩
  case laws =>
    have hpos := toNat_pos hb
    rw [thr_toNat hb]
    exact ⟨Nat.mod_lt _ hpos, threshold_lt_half hpos b.isLt, fun hhalf => threshold_of_large hhalf b.isLt,
      threshold_eq_zero_iff b.isLt, sub_threshold b.toNat⟩
  case values => decide

end Sys2Proof.Machine
end

section
/-! The three ports (spec/20_memory.md R51, R55; spec/70_reset_and_hazards.md R217, R218): when each output is up, when each
port transfers, and the edge at which none does. -/

namespace Sys2Proof.Machine

variable {s t : State} {e f : Edge} {rest : List Edge}

theorem cmdReady_iff : s.cmdReady e = true ↔ s.outputUp e = true ∧ s.st = .idle := by
  simp [State.cmdReady]

theorem rndReady_iff : s.rndReady e = true ↔ s.outputUp e = true ∧ s.st = .sampling := by
  simp [State.rndReady]

theorem rspValid_iff : s.rspValid e = true ↔ s.outputUp e = true ∧ (s.st = .done ∨ s.st = .failed) := by
  simp [State.rspValid]

/-- Settles O4: the conditions of the three transfers. -/
theorem commandTransferCondition : Obligations.CommandTransferCondition := by
  refine fun s e => ⟨fun w => ?cmd, fun x => ?rnd, ?rsp⟩
  case cmd => rw [cmdTransfer_some]; tauto
  case rnd => rw [rndTransfer_some]; tauto
  case rsp => rw [rspTransfer_true]; tauto

/-- Settles O3: every term is well formed, and the edge of a command transfer runs `exec`. -/
theorem stepRunsDecodedCommand : Obligations.StepRunsDecodedCommand := by
  intro s e rest w hin hw
  have hwf : (decode w).wellFormed = true := by cases decode w <;> rfl
  exact ⟨hwf, step_command hin hw⟩

/-- Settles O9: the busy unit's `cmd_ready` needs `Idle`, and so does `exec`. -/
theorem busyUnitHoldsCommandOff : Obligations.BusyUnitHoldsCommandOff := by
  refine fun s hbusy => ⟨fun e => ⟨?ready, cmdTransfer_of_ne_idle hbusy e⟩, fun i => ?exec⟩
  case ready => exact Bool.eq_false_iff.2 fun h => hbusy (cmdReady_iff.1 h).2
  case exec =>
    obtain ⟨_, h⟩ | ⟨hidle, _⟩ := exec_cases i s
    · exact h
    · exact absurd hidle hbusy

theorem st_of_cmdTransfer_isSome (h : (s.cmdTransfer e).isSome = true) : s.st = .idle :=
  st_of_cmdTransfer (Option.eq_some_of_isSome h)

theorem st_of_rndTransfer_isSome (h : (s.rndTransfer e).isSome = true) : s.st = .sampling :=
  st_of_rndTransfer (Option.eq_some_of_isSome h)

/-- Settles O17: each port transfers in control states of its own. -/
theorem atMostOneTransferPerEdge : Obligations.AtMostOneTransferPerEdge := by
  refine fun s e => ⟨fun h => (cmdReady_iff.1 h).2, fun h => (rndReady_iff.1 h).2, fun h => (rspValid_iff.1 h).2,
    fun ⟨hc, hx⟩ => ?cmd_rnd, fun ⟨hc, hp⟩ => ?cmd_rsp, fun ⟨hx, hp⟩ => ?rnd_rsp⟩
  case cmd_rnd => exact nomatch (st_of_cmdTransfer_isSome hc).symm.trans (st_of_rndTransfer_isSome hx)
  case cmd_rsp => rcases st_of_rspTransfer hp with h | h <;> exact nomatch (st_of_cmdTransfer_isSome hc).symm.trans h
  case rnd_rsp => rcases st_of_rspTransfer hp with h | h <;> exact nomatch (st_of_rndTransfer_isSome hx).symm.trans h

/-- Settles O15: the edge waits, and without `rst` the output is up as the model's own fields say. -/
theorem edgeWithoutTransferChangesNothing : Obligations.EdgeWithoutTransferChangesNothing := by
  intro s e rest hin hr hc hx hp
  have hup : s.outputUp e = (s.raised || !e.stall) := by simp [State.outputUp, hr]
  rw [step_wait hin hr hc hx hp, ← hup]
  rfl

/-- An output that waits at an edge where it is up is up at the next edge, stalled or not. -/
theorem outputUp_of_waited (hup : s.outputUp e = true) (hf : f.rst = false) :
    ((s.dropEdge rest).waitEdge e).outputUp f = true := by
  have hraised : ((s.dropEdge rest).waitEdge e).raised = true := hup
  rw [State.outputUp, hf, hraised]
  rfl

/-- Settles O16: the edge only waits, which keeps the control state and the output. -/
theorem unansweredOutputStaysUp : Obligations.UnansweredOutputStaysUp := by
  intro s t e f rest hin hr hf hc hx hp hstep
  cases (step_wait hin hr hc hx hp).symm.trans hstep
  refine ⟨fun h => ?cmd, fun h => ?rnd, fun h => ⟨?rsp, rfl⟩⟩
  case cmd =>
    obtain ⟨hup, hst⟩ := cmdReady_iff.1 h
    exact cmdReady_iff.2 ⟨outputUp_of_waited hup hf, hst⟩
  case rnd =>
    obtain ⟨hup, hst⟩ := rndReady_iff.1 h
    exact rndReady_iff.2 ⟨outputUp_of_waited hup hf, hst⟩
  case rsp =>
    obtain ⟨hup, hst⟩ := rspValid_iff.1 h
    exact rspValid_iff.2 ⟨outputUp_of_waited hup hf, hst⟩

/-- Settles O21: the response transfer is `respond`; none of the other steps writes what the host has received. -/
theorem responsesGivenOnlyByRespond : Obligations.ResponsesGivenOnlyByRespond := by
  refine fun s t e rest hin hstep => ⟨fun hp => ?given, fun hp => ?kept⟩
  case given =>
    cases (step_response hin hp).symm.trans hstep
    exact ⟨rfl, rfl⟩
  case kept =>
    cases edgeStep_of_step hin hstep with
    | reset | wait => rfl
    | command _ _ _ _ _ haccept => cases haccept <;> rfl
    | sample _ _ _ hdraw => cases hdraw <;> rfl
    | response htaken => exact absurd htaken (Bool.eq_false_iff.1 hp)

end Sys2Proof.Machine
end

section
/-! The `accept` step of each instruction (spec/40_widening_multiplier.md R106, spec/41_modular_threshold.md R128,
spec/60_exceptions.md R180 to R182) and the later samples of a `GEN` (spec/42_rejection_sampler.md R146). -/

namespace Sys2Proof.Machine

variable {s t : State}

theorem exec_mulw (hst : s.st = .idle) (x y : Word) :
    exec (.mulw x y) s = .next (s.finish (wmul x y).high (wmul x y).low) :=
  whenIdle_of_idle hst _

theorem exec_thresh_nonzero {b : Word} (hst : s.st = .idle) (hb : b ≠ 0) :
    exec (.thresh b) s = .next (s.finish (neg64 b) (thr b)) := by
  simp only [exec, execThresh, whenIdle_of_idle hst, (boundValid_eq b).2 hb, if_true]

/-- Settles O5: the response word packs the two halves of the product. -/
theorem mulwCompletes : Obligations.MulwCompletes := by
  intro s x y hst
  refine ⟨_, exec_mulw hst x y, statusOf_response _ _ _, ?_, ?_⟩
  · rw [r1Of_response, wmul_high_toNat]
  · rw [r0Of_response, wmul_low_toNat]

/-- Settles O6: the response word packs the negation and the threshold. -/
theorem threshCompletes : Obligations.ThreshCompletes := by
  intro s b hst hb
  refine ⟨_, exec_thresh_nonzero hst hb, statusOf_response _ _ _, ?_, ?_⟩
  · rw [r1Of_response, neg64_value hb]
  · rw [r0Of_response, thr_toNat hb]

/-- Settles O10: each end of `accept` is `Failed` with the status of its cause, or not `Failed`. -/
theorem errorsExactlyByOperand : Obligations.ErrorsExactlyByOperand := by
  intro s t i hst hexec
  cases acceptStep_of_exec hst hexec with
  | gen b hb => simp [show ¬b = 0#64 from hb]
  | genZero => simp [Cause.status, Status.code]
  | mulw x y => simp
  | thresh b hb => simp [show ¬b = 0#64 from hb]
  | threshZero => simp [Cause.status, Status.code]
  | illegal => simp [Cause.status, Status.code]

/-- Settles O13: a later sample writes the product, and the response when it passes the test against `THR`. -/
theorem laterSampleTestsThreshold : Obligations.LaterSampleTestsThreshold := by
  intro s e rest x hin hx hv
  refine ⟨(wmul x s.bound).high, (wmul x s.bound).low, wmul_high_toNat x s.bound, wmul_low_toNat x s.bound,
    fun hacc => ?accept, fun hrej => ?reject⟩
  case accept =>
    exact ⟨_, statusOf_response _ _ _, r1Of_response _ _ _, r0Of_response _ _ _,
      step_sample hin hx (draw_later_accept hv hacc)⟩
  case reject => exact step_sample hin hx (draw_later_reject hv hrej)

end Sys2Proof.Machine
end

section
/-! The table of the control state's transitions (spec/42_rejection_sampler.md R149). -/

namespace Sys2Proof.Machine

variable {s t : State} {e : Edge} {rest : List Edge}

/-- The operation of a command word, by its `op` (R71). -/
theorem decode_cases (w : CommandWord) :
    (commandOp w = 0 ∧ decode w = .gen (commandOpa w)) ∨
    (commandOp w = 1 ∧ decode w = .mulw (commandOpa w) (commandOpb w)) ∨
    (commandOp w = 2 ∧ decode w = .thresh (commandOpa w)) ∨
    (commandOp w = 3 ∧ decode w = .illegal) := by
  obtain h | h | h | h := op_cases (commandOp w)
  · exact .inl ⟨h, by simp [decode, h]⟩
  · exact .inr (.inl ⟨h, by simp [decode, h]⟩)
  · exact .inr (.inr (.inl ⟨h, by simp [decode, h]⟩))
  · exact .inr (.inr (.inr ⟨h, by simp [decode, h]⟩))

theorem acceptStep_gen_st {b : Word} (h : AcceptStep s (.gen b) t) :
    (t.st = .failed ∧ b = 0) ∨ (t.st = .sampling ∧ b ≠ 0) := by
  cases h with
  | gen _ hb => exact .inr ⟨rfl, hb⟩
  | genZero => exact .inl ⟨rfl, rfl⟩

theorem acceptStep_thresh_st {b : Word} (h : AcceptStep s (.thresh b) t) :
    (t.st = .failed ∧ b = 0) ∨ (t.st = .done ∧ b ≠ 0) := by
  cases h with
  | thresh _ hb => exact .inr ⟨rfl, hb⟩
  | threshZero => exact .inl ⟨rfl, rfl⟩

theorem acceptStep_mulw_st {x y : Word} (h : AcceptStep s (.mulw x y) t) : t.st = .done := by
  cases h; rfl

theorem acceptStep_illegal_st (h : AcceptStep s .illegal t) : t.st = .failed := by
  cases h; rfl

/-- The rows of the table for a command, by its `op` and `opa`. -/
theorem acceptStep_st_table {w : CommandWord} (h : AcceptStep s (decode w) t) :
    (t.st = .failed ∧ (commandOp w = 3 ∨ ((commandOp w = 0 ∨ commandOp w = 2) ∧ commandOpa w = 0))) ∨
    (t.st = .sampling ∧ commandOp w = 0 ∧ commandOpa w ≠ 0) ∨
    (t.st = .done ∧ (commandOp w = 1 ∨ (commandOp w = 2 ∧ commandOpa w ≠ 0))) := by
  obtain ⟨hop, hdec⟩ | ⟨hop, hdec⟩ | ⟨hop, hdec⟩ | ⟨hop, hdec⟩ := decode_cases w <;> rw [hdec] at h
  · obtain ⟨hst, h0⟩ | ⟨hst, h0⟩ := acceptStep_gen_st h
    · exact .inl ⟨hst, .inr ⟨.inl hop, h0⟩⟩
    · exact .inr (.inl ⟨hst, hop, h0⟩)
  · exact .inr (.inr ⟨acceptStep_mulw_st h, .inl hop⟩)
  · obtain ⟨hst, h0⟩ | ⟨hst, h0⟩ := acceptStep_thresh_st h
    · exact .inl ⟨hst, .inr ⟨.inr hop, h0⟩⟩
    · exact .inr (.inr ⟨hst, .inr ⟨hop, h0⟩⟩)
  · exact .inl ⟨acceptStep_illegal_st h, .inl hop⟩

/-- The rows of the table for a sample, by the two tests. -/
theorem drawStep_st_table {x : Sample} (hst : s.st = .sampling) (h : DrawStep s x t) :
    (t.st = .done ∧ s.thrv = false ∧ s.bound.toNat ≤ lowOf s.bound.toNat x) ∨
    (t.st = .done ∧ s.thrv = false ∧ lowOf s.bound.toNat x < s.bound.toNat ∧
      2 ^ 64 % s.bound.toNat ≤ lowOf s.bound.toNat x) ∨
    (t.st = .sampling ∧ s.thrv = false ∧ lowOf s.bound.toNat x < s.bound.toNat ∧
      lowOf s.bound.toNat x < 2 ^ 64 % s.bound.toNat) ∨
    (t.st = .done ∧ s.thrv = true ∧ s.thr.toNat ≤ lowOf s.bound.toNat x) ∨
    (t.st = .sampling ∧ s.thrv = true ∧ lowOf s.bound.toNat x < s.thr.toNat) := by
  cases h with
  | fast hv hlow => exact .inl ⟨rfl, hv, hlow⟩
  | slowAccept hv hlow hacc => exact .inr (.inl ⟨rfl, hv, hlow, hacc⟩)
  | slowReject hv hlow hrej => exact .inr (.inr (.inl ⟨hst, hv, hlow, hrej⟩))
  | laterAccept hv hacc => exact .inr (.inr (.inr (.inl ⟨rfl, hv, hacc⟩)))
  | laterReject hv hrej => exact .inr (.inr (.inr (.inr ⟨hst, hv, hrej⟩)))

/-- Settles O19: one row, or one group of rows, for each of the five steps of an edge. -/
theorem controlTransitionsAreTheTable : Obligations.ControlTransitionsAreTheTable := by
  intro s t e rest hin hstep
  cases edgeStep_of_step hin hstep with
  | reset hr => exact .inl ⟨hr, rfl⟩
  | command w _ _ hw hi haccept =>
    exact .inr (.inl ⟨st_of_cmdTransfer hw, w, hw, acceptStep_st_table (hi ▸ haccept)⟩)
  | sample x _ hx hdraw =>
    have hst := st_of_rndTransfer hx
    exact .inr (.inr (.inl ⟨hst, x, hx, drawStep_st_table (s := s.atTransfer rest) hst hdraw⟩))
  | response hp => exact .inr (.inr (.inr (.inl ⟨st_of_rspTransfer hp, hp, rfl⟩)))
  | wait hr hc hx hp => exact .inr (.inr (.inr (.inr ⟨hr, hc, hx, hp, rfl⟩)))

end Sys2Proof.Machine
end

section
/-! Which step writes each register (spec/10_state.md R20, R22 to R25). -/

namespace Sys2Proof.Machine

variable {s t : State} {e : Edge} {rest : List Edge}

theorem bound_written (h : EdgeStep s e rest t) (hne : t.bound ≠ s.bound) :
    ∃ w, s.cmdTransfer e = some w ∧ decode w = .gen t.bound ∧ t.bound ≠ 0 := by
  cases h with
  | reset | response | wait => exact absurd rfl hne
  | command w _ _ hw hi haccept =>
    cases haccept with
    | gen b hb => exact ⟨w, hw, hi, hb⟩
    | genZero | mulw | thresh | threshZero | illegal => exact absurd rfl hne
  | sample _ _ _ hdraw => cases hdraw <;> exact absurd rfl hne

theorem product_written (h : EdgeStep s e rest t) (hne : t.hi ≠ s.hi ∨ t.lo ≠ s.lo) :
    ∃ x, s.rndTransfer e = some x := by
  have hkept : ¬(t.hi = s.hi ∧ t.lo = s.lo) := by tauto
  cases h with
  | reset | response | wait => exact absurd ⟨rfl, rfl⟩ hkept
  | command _ _ _ _ _ haccept => cases haccept <;> exact absurd ⟨rfl, rfl⟩ hkept
  | sample x _ hx => exact ⟨x, hx⟩

theorem thr_written (h : EdgeStep s e rest t) (hne : t.thr ≠ s.thr) :
    s.thrv = false ∧ t.thrv = true ∧ t.lo.toNat < s.bound.toNat ∧ ∃ x, s.rndTransfer e = some x := by
  cases h with
  | reset | response | wait => exact absurd rfl hne
  | command _ _ _ _ _ haccept => cases haccept <;> exact absurd rfl hne
  | sample x _ hx hdraw =>
    cases hdraw with
    | slowAccept hv hlow | slowReject hv hlow => exact ⟨hv, rfl, (wmul_low_eq_lowOf x s.bound).trans_lt hlow, x, hx⟩
    | fast | laterAccept | laterReject => exact absurd rfl hne

theorem thrv_set (h : EdgeStep s e rest t) (hne : t.thrv ≠ s.thrv) (hv : t.thrv = true) :
    ∃ x, s.rndTransfer e = some x := by
  cases h with
  | reset => exact nomatch hv
  | response | wait => exact absurd rfl hne
  | command _ _ _ _ _ haccept =>
    cases haccept with
    | gen => exact nomatch hv
    | genZero | mulw | thresh | threshZero | illegal => exact absurd rfl hne
  | sample x _ hx => exact ⟨x, hx⟩

theorem thrv_cleared (h : EdgeStep s e rest t) (hne : t.thrv ≠ s.thrv) (hv : t.thrv = false) :
    e.rst = true ∨ ∃ w b, s.cmdTransfer e = some w ∧ decode w = .gen b ∧ b ≠ 0 := by
  cases h with
  | reset hr => exact .inl hr
  | response | wait => exact absurd rfl hne
  | command w _ _ hw hi haccept =>
    cases haccept with
    | gen b hb => exact .inr ⟨w, b, hw, hi, hb⟩
    | genZero | mulw | thresh | threshZero | illegal => exact absurd rfl hne
  | sample _ _ _ hdraw =>
    cases hdraw with
    | slowAccept | slowReject => exact nomatch hv
    | fast | laterAccept | laterReject => exact absurd rfl hne

theorem rsp_written (h : EdgeStep s e rest t) (hne : t.rsp ≠ s.rsp) :
    (s.st = .idle ∨ s.st = .sampling) ∧ (t.st = .done ∨ t.st = .failed) := by
  cases h with
  | reset | response | wait => exact absurd rfl hne
  | command _ _ _ hw _ haccept =>
    refine ⟨.inl (st_of_cmdTransfer hw), ?_⟩
    cases haccept with
    | gen => exact absurd rfl hne
    | mulw | thresh => exact .inl rfl
    | genZero | threshZero | illegal => exact .inr rfl
  | sample _ _ hx hdraw =>
    refine ⟨.inr (st_of_rndTransfer hx), ?_⟩
    cases hdraw with
    | fast | slowAccept | laterAccept => exact .inl rfl
    | slowReject | laterReject => exact absurd rfl hne

/-- Settles O20: register by register, from the five steps of an edge. -/
theorem registersWrittenOnlyByTheirSteps : Obligations.RegistersWrittenOnlyByTheirSteps := by
  intro s t e rest hin hstep
  have h := edgeStep_of_step hin hstep
  exact ⟨bound_written h, product_written h, thr_written h, thrv_set h, thrv_cleared h, rsp_written h⟩

end Sys2Proof.Machine
end

section
/-! The laws of `draw` (spec/42_rejection_sampler.md R153, R154, R159, R161): one verdict and one result for every sample from
a legal state, whichever test is made. -/

namespace Sys2Proof.Machine

variable {s t : State} {x : Sample} {b : Nat} {e : Edge} {rest : List Edge}

theorem accepts_iff : accepts b x = true ↔ 2 ^ 64 % b ≤ lowOf b x := by
  simp [accepts]

theorem accepts_eq_false_iff : accepts b x = false ↔ lowOf b x < 2 ^ 64 % b := by
  simp [accepts]

theorem highOf_lt (hb : 0 < b) (x : Sample) : highOf b x < b :=
  Nat.div_lt_of_lt_mul (Nat.mul_lt_mul_of_pos_right x.isLt hb)

theorem drawStep_bound (h : DrawStep s x t) : t.bound = s.bound := by
  cases h <;> rfl

theorem drawStep_product (h : DrawStep s x t) : t.hi = (wmul x s.bound).high ∧ t.lo = (wmul x s.bound).low := by
  cases h <;> exact ⟨rfl, rfl⟩

/-- A draw that ends the operation gives the high half of its sample. -/
theorem drawStep_result (hst : s.st = .sampling) (h : DrawStep s x t) (hdone : t.st = .done) :
    t.HoldsResult (highOf s.bound.toNat x) := by
  cases h with
  | fast | slowAccept | laterAccept => exact finish_highOf_holdsResult _ x s.bound
  | slowReject | laterReject => exact nomatch hst.symm.trans hdone

/-- The fast path accepts what the threshold would, and from a legal state `THR` is the threshold of the bound: so the one
condition decides every draw. -/
theorem drawStep_verdict (hst : s.st = .sampling) (hs : s.Legal) (h : DrawStep s x t) :
    (accepts s.bound.toNat x = true ∧ t.st = .done) ∨ (accepts s.bound.toNat x = false ∧ t.st = .sampling) := by
  cases h with
  | fast _ hlow =>
    have hmod : 2 ^ 64 % s.bound.toNat < s.bound.toNat := Nat.mod_lt _ (toNat_pos (hs.sampling_bound hst))
    exact .inl ⟨accepts_iff.2 (hmod.le.trans hlow), rfl⟩
  | slowAccept _ _ hacc => exact .inl ⟨accepts_iff.2 hacc, rfl⟩
  | slowReject _ _ hrej => exact .inr ⟨accepts_eq_false_iff.2 hrej, hst⟩
  | laterAccept hv hacc => exact .inl ⟨accepts_iff.2 (hs.sampling_thr hst hv ▸ hacc), rfl⟩
  | laterReject hv hrej => exact .inr ⟨accepts_eq_false_iff.2 (hs.sampling_thr hst hv ▸ hrej), hst⟩

/-- Settles O25: the two verdicts exclude each other. -/
theorem oneAcceptanceCondition : Obligations.OneAcceptanceCondition := by
  intro s t e rest x hs hin hx hstep
  have hlegal := legal_of_sameUnit (sameUnit_atTransfer s rest) hs
  have hst : (s.atTransfer rest).st = .sampling := st_of_rndTransfer (s := s) hx
  have hverdict : (accepts s.bound.toNat x = true ∧ t.st = .done) ∨
      (accepts s.bound.toNat x = false ∧ t.st = .sampling) :=
    drawStep_verdict (s := s.atTransfer rest) hst hlegal (drawStep_of_step hin hx hstep)
  obtain ⟨hacc, ht⟩ | ⟨hacc, ht⟩ := hverdict <;> simp [hacc, ht]

/-- Settles O24: a result is the high half of a product with the bound. -/
theorem genResultBelowBound : Obligations.GenResultBelowBound := by
  intro s t e rest x hin hx hb hstep hdone
  have hdraw := drawStep_of_step hin hx hstep
  have hst : (s.atTransfer rest).st = .sampling := st_of_rndTransfer (s := s) hx
  have hbound : t.bound = s.bound := drawStep_bound (s := s.atTransfer rest) hdraw
  have hres : t.HoldsResult (highOf s.bound.toNat x) :=
    drawStep_result (s := s.atTransfer rest) hst hdraw hdone
  exact ⟨by rw [hres.r0, hbound]; exact highOf_lt (toNat_pos hb) x, hres.r1, hbound⟩

/-- From a legal state, the edge of an accepted sample ends the operation with the sample's high half. -/
theorem step_accepted_sample (hs : s.Legal) (hin : s.inputs = e :: rest) (hx : s.rndTransfer e = some x)
    (hacc : accepts s.bound.toNat x = true) :
    ∃ t, step s = .next t ∧ t.HoldsResult (highOf s.bound.toNat x) := by
  have hstep := step_sample hin hx rfl
  have hst : (s.atTransfer rest).st = .sampling := st_of_rndTransfer (s := s) hx
  have hdone := (oneAcceptanceCondition _ _ _ _ _ hs hin hx hstep).1.2 hacc
  exact ⟨_, hstep, drawStep_result (s := s.atTransfer rest) hst (drawStep_draw _ x) hdone⟩

theorem allOnes_mul (hb : 0 < b) (hlt : b < 2 ^ 64) :
    (BitVec.allOnes 64).toNat * b = (b - 1) * 2 ^ 64 + (2 ^ 64 - b) := by
  simp only [BitVec.toNat_allOnes]
  omega

theorem highOf_allOnes (hb : 0 < b) (hlt : b < 2 ^ 64) : highOf b (BitVec.allOnes 64) = b - 1 := by
  rw [highOf, allOnes_mul hb hlt]
  omega

theorem accepts_allOnes (hb : 0 < b) (hlt : b < 2 ^ 64) : accepts b (BitVec.allOnes 64) = true := by
  have hlow : lowOf b (BitVec.allOnes 64) = 2 ^ 64 - b := by
    rw [lowOf, allOnes_mul hb hlt]
    omega
  rw [accepts_iff, hlow, ← sub_mod_self_eq hlt.le]
  exact Nat.mod_le _ _

/-- Settles O34: the largest sample's product is the bound less one times `2^64`, and a low half of `2^64` less the bound. -/
theorem largestSampleAlwaysAccepted : Obligations.LargestSampleAlwaysAccepted := by
  intro s e rest hs hin hx
  have hpos := toNat_pos (hs.sampling_bound (st_of_rndTransfer hx))
  obtain ⟨t, hstep, hres⟩ := step_accepted_sample hs hin hx (accepts_allOnes hpos s.bound.isLt)
  exact ⟨t, hstep, hres.st, hres.status, hres.r0.trans (highOf_allOnes hpos s.bound.isLt)⟩

/-- Settles O35: the threshold of a power of two is 0, and the high half is a shift. -/
theorem powerOfTwoNeverRejects : Obligations.PowerOfTwoNeverRejects := by
  intro s e rest x k hs hin hx hk hbound
  have hthr : 2 ^ 64 % s.bound.toNat = 0 := (threshold_eq_zero_iff s.bound.isLt).2 ⟨k, hk, hbound⟩
  have hacc : accepts s.bound.toNat x = true := accepts_iff.2 (hthr ▸ Nat.zero_le _)
  obtain ⟨t, hstep, hres⟩ := step_accepted_sample hs hin hx hacc
  refine ⟨t, hstep, hres.st, hres.status, hres.r0.trans ?_⟩
  rw [hbound]
  exact mul_two_pow_div x.toNat (by omega)

/-- Settles O36: both are the halves of one `wmul`. -/
theorem genProductEqualsMulw : Obligations.GenProductEqualsMulw := by
  intro s t u v e rest x hin hx hstep hidle hexec
  cases (exec_mulw hidle x s.bound).symm.trans hexec
  obtain ⟨hhi, hlo⟩ := drawStep_product (drawStep_of_step hin hx hstep)
  exact ⟨hhi.trans (r1Of_response _ _ _).symm, hlo.trans (r0Of_response _ _ _).symm⟩

/-- The threshold is written by a first draw with `low < BOUND`, and by no other draw. -/
theorem drawStep_threshold (h : DrawStep s x t) :
    (s.thrv = false → lowOf s.bound.toNat x < s.bound.toNat → t.thr = thr s.bound ∧ t.thrv = true) ∧
    (s.thrv = true ∨ s.bound.toNat ≤ lowOf s.bound.toNat x → t.thr = s.thr ∧ t.thrv = s.thrv) := by
  cases h with
  | fast hv hlow => exact ⟨fun _ hslow => absurd hslow (Nat.not_lt.2 hlow), fun _ => ⟨rfl, rfl⟩⟩
  | slowAccept hv hlow | slowReject hv hlow =>
    refine ⟨fun _ _ => ⟨rfl, rfl⟩, fun hkept => ?_⟩
    rcases hkept with hv' | hfast
    · exact nomatch hv.symm.trans hv'
    · exact absurd hlow (Nat.not_lt.2 hfast)
  | laterAccept hv | laterReject hv => exact ⟨fun hv' => absurd (hv.symm.trans hv') (by decide), fun _ => ⟨rfl, rfl⟩⟩

/-- Settles O37: both are `thr` of the bound. -/
theorem genThresholdEqualsThresh : Obligations.GenThresholdEqualsThresh := by
  intro s t u v e rest x hin hx hb hstep hidle hexec
  cases (exec_thresh_nonzero hidle hb).symm.trans hexec
  have hdraw := drawStep_of_step hin hx hstep
  have hlo : t.lo.toNat = lowOf s.bound.toNat x := by rw [(drawStep_product hdraw).2, wmul_low_eq_lowOf]; rfl
  rw [State.finish_rsp, r0Of_response, hlo]
  exact drawStep_threshold (s := s.atTransfer rest) hdraw

end Sys2Proof.Machine
end

section
/-! The laws of the algorithm on a sequence of samples (spec/42_rejection_sampler.md R151, R154, R161), and what they say of a
unit that is fed those samples. -/

namespace Sys2Proof.Machine

variable {s t : State} {b : Nat} {rest : List Edge}

/-- Settles O26: the fast path accepts a first sample that the loop accepts too; on the slow path the algorithm is the
loop. -/
theorem algorithmEqualsSimpleLoop : Obligations.AlgorithmEqualsSimpleLoop := by
  intro b xs hb _
  cases xs with
  | nil => rfl
  | cons x xs =>
    rcases Nat.lt_or_ge (lowOf b x) b with hslow | hfast
    · exact generate_slow hslow xs
    · have hmod : 2 ^ 64 % b < b := Nat.mod_lt _ hb
      rw [generate_fast hfast, redraw_accept (hmod.le.trans hfast)]

/-- The loop passes over rejected samples. -/
theorem redraw_append_of_rejected {before : List Sample} (h : ∀ y ∈ before, accepts b y = false) (xs : List Sample) :
    redraw b (2 ^ 64 % b) (before ++ xs) = redraw b (2 ^ 64 % b) xs := by
  induction before with
  | nil => rfl
  | cons y ys ih =>
    obtain ⟨hy, hys⟩ := List.forall_mem_cons.1 h
    rw [List.cons_append, redraw_reject (accepts_eq_false_iff.1 hy), ih hys]

/-- Settles O28: by the simple loop, which passes over the rejected samples. -/
theorem algorithmStopsAtFirstAccepted : Obligations.AlgorithmStopsAtFirstAccepted := by
  intro b before hb hlt hrej
  refine ⟨?none, fun x later hacc => ?some⟩
  case none =>
    rw [algorithmEqualsSimpleLoop b before hb hlt]
    simpa [redraw] using redraw_append_of_rejected hrej []
  case some =>
    rw [algorithmEqualsSimpleLoop b _ hb hlt, redraw_append_of_rejected hrej, redraw_accept (accepts_iff.1 hacc)]

/-- The edge at which a unit in `Done` or `Failed` has its response taken. -/
theorem step_takeResponse (hst : s.st = .done ∨ s.st = .failed) (hin : s.inputs = Edge.takeResponse :: rest) :
    step s = .next (s.atTransfer rest).respond :=
  step_response hin (rspTransfer_true.2 ⟨rfl, .inr rfl, hst, rfl⟩)

/-- Settles O29: after the algorithm's draws the unit holds the result, and the next edge takes it. -/
theorem genOperationGivesOneResponse : Obligations.GenOperationGivesOneResponse := by
  intro s b xs v rest hst hb hgen hin
  have hgenRun := genRefinesAlgorithm s b xs _ hst hin
  rw [if_neg hb, hgen] at hgenRun
  obtain ⟨t, hrun, hdone, hstatus, hr1, hr0, hrest, hrec⟩ := hgenRun
  have htake := step_takeResponse (.inl hdone) hrest
  refine ⟨(t.atTransfer rest).respond, t.rsp, ?_, rfl, rfl, congrArg (· ++ [t.rsp]) hrec, hstatus, hr1, hr0⟩
  calc Host.Core.run Sys2Proof.core (xs.length + 2) s
      = Host.Core.run Sys2Proof.core (1 + xs.length + 1) s := by rw [Nat.add_comm 1]
    _ = Host.Core.run Sys2Proof.core 1 t := run_add _ 1 hrun
    _ = .next (t.atTransfer rest).respond := run_succ 0 htake

/-- A zero sample has a zero low half, so it is rejected unless the threshold is zero. -/
theorem accepts_zero (h : 2 ^ 64 % b ≠ 0) : accepts b 0 = false := by
  have hlow : lowOf b 0 = 0 := by simp [lowOf]
  exact accepts_eq_false_iff.2 (hlow ▸ Nat.pos_of_ne_zero h)

/-- Settles O33: the algorithm does not stop on zeros, so the unit is in `Sampling` after them. -/
theorem constantZeroSourceNeverEnds : Obligations.ConstantZeroSourceNeverEnds := by
  intro s b k tail hst hthr hb hin
  have hrej : ∀ y ∈ List.replicate k (0 : Sample), accepts b.toNat y = false :=
    fun y hy => List.eq_of_mem_replicate hy ▸ accepts_zero hthr
  have hgen := (algorithmStopsAtFirstAccepted b.toNat _ (toNat_pos hb) b.isLt hrej).1
  rw [← List.map_replicate] at hin
  have hgenRun := genRefinesAlgorithm s b _ tail hst hin
  rw [if_neg hb, hgen, List.length_replicate] at hgenRun
  obtain ⟨t, hrun, hsampling, _, hrest, hrec⟩ := hgenRun
  exact ⟨t, hrun, hsampling, hrest, hrec⟩

end Sys2Proof.Machine
end

section
/-! The counts over all samples (spec/42_rejection_sampler.md R155 to R157). The samples with one high half and a low half in a
window are those whose product with the bound is in an interval: as many as bounds fit in the window. -/

namespace Sys2Proof.Machine

variable {b v low q : Nat}

/-- A set of samples that is an interval of numbers is as large as the interval. -/
theorem card_samples_Ico (p : Sample → Prop) [DecidablePred p] {c d : Nat} (hd : d ≤ 2 ^ 64)
    (hp : ∀ x : Sample, p x ↔ c ≤ x.toNat ∧ x.toNat < d) : (Finset.univ.filter p).card = d - c := by
  have hvalue : ∀ n ∈ Finset.Ico c d, (BitVec.ofNat 64 n).toNat = n := fun n hn =>
    toNat_ofNat_of_lt ((Finset.mem_Ico.1 hn).2.trans_le hd)
  rw [← Nat.card_Ico c d]
  refine Finset.card_bij (fun x _ => x.toNat) (fun x hx => ?maps) (fun x _ y _ => BitVec.eq_of_toNat_eq)
    fun n hn => ⟨BitVec.ofNat 64 n, ?onto, hvalue n hn⟩
  case maps => exact Finset.mem_Ico.2 ((hp x).1 (Finset.mem_filter.1 hx).2)
  case onto =>
    refine Finset.mem_filter.2 ⟨Finset.mem_univ _, (hp _).2 ?_⟩
    rw [hvalue n hn]
    exact Finset.mem_Ico.1 hn

theorem add_mul_ceilDiv (hb : 0 < b) (a q : Nat) : (a + b * q) ⌈/⌉ b = a ⌈/⌉ b + q := by
  rw [Nat.ceilDiv_eq_add_pred_div, Nat.ceilDiv_eq_add_pred_div, ← Nat.add_mul_div_left _ _ hb]
  congr 1
  omega

/-- A multiple is in an interval exactly when its factor is between the interval's ends, divided and rounded up. -/
theorem mul_mem_Ico_iff (hb : 0 < b) (a d n : Nat) : (a ≤ n * b ∧ n * b < d) ↔ (a ⌈/⌉ b ≤ n ∧ n < d ⌈/⌉ b) := by
  rw [← not_le, ← not_le (a := d ⌈/⌉ b), ceilDiv_le_iff_le_mul hb, ceilDiv_le_iff_le_mul hb, Nat.mul_comm n b]

/-- A product's halves are in a window exactly when the product is in the interval there. -/
theorem halves_mem_window_iff {window : Nat} (hfit : low + window ≤ 2 ^ 64) (x : Sample) :
    (highOf b x = v ∧ low ≤ lowOf b x ∧ lowOf b x < low + window) ↔
      (v * 2 ^ 64 + low ≤ x.toNat * b ∧ x.toNat * b < v * 2 ^ 64 + low + window) := by
  rw [highOf, lowOf]
  omega

/-- For a high half below the bound, as many samples have a low half in a window as bounds fit in it. -/
theorem card_low_window (hv : v < b) (hfit : low + b * q ≤ 2 ^ 64) :
    (Finset.univ.filter fun x : Sample =>
      highOf b x = v ∧ low ≤ lowOf b x ∧ lowOf b x < low + b * q).card = q := by
  have hb : 0 < b := Nat.zero_lt_of_lt hv
  have hproducts : v * 2 ^ 64 + low + b * q ≤ b * 2 ^ 64 := by omega
  have hlast : (v * 2 ^ 64 + low + b * q) ⌈/⌉ b ≤ 2 ^ 64 := (ceilDiv_le_iff_le_mul hb).2 hproducts
  rw [card_samples_Ico _ hlast fun x => (halves_mem_window_iff hfit x).trans (mul_mem_Ico_iff hb _ _ _),
    add_mul_ceilDiv hb, Nat.add_sub_cancel_left]

/-- A set of samples with `q` members for each high half below the bound has `b * q` members. -/
theorem card_of_card_highOf (hb : 0 < b) (p : Sample → Prop) [DecidablePred p]
    (hp : ∀ v < b, (Finset.univ.filter fun x : Sample => p x ∧ highOf b x = v).card = q) :
    (Finset.univ.filter p).card = b * q := by
  have hmaps : Set.MapsTo (highOf b) (Finset.univ.filter p) (Finset.range b) := fun x _ =>
    Finset.mem_coe.2 (Finset.mem_range.2 (highOf_lt hb x))
  rw [Finset.card_eq_sum_card_fiberwise hmaps]
  calc ∑ v ∈ Finset.range b, ((Finset.univ.filter p).filter fun x => highOf b x = v).card
      = ∑ _v ∈ Finset.range b, q := Finset.sum_congr rfl fun v hv => by
        rw [Finset.filter_filter, hp v (Finset.mem_range.1 hv)]
    _ = b * q := by rw [Finset.sum_const, Finset.card_range, smul_eq_mul]

/-- Settles O30: the accepted low halves are a window in which `2^64 div b` bounds fit exactly. -/
theorem acceptedSamplesAreUniform : Obligations.AcceptedSamplesAreUniform := by
  intro b v hb hlt hv
  have hfit : 2 ^ 64 % b + b * (2 ^ 64 / b) = 2 ^ 64 := Nat.mod_add_div _ _
  rw [← card_low_window hv hfit.le]
  refine congrArg Finset.card (Finset.filter_congr fun x _ => ?_)
  have hlow : lowOf b x < 2 ^ 64 := Nat.mod_lt _ (by decide)
  rw [accepts_iff, hfit]
  exact ⟨fun ⟨hacc, hhigh⟩ => ⟨hhigh, hacc, hlow⟩, fun ⟨hhigh, hacc, _⟩ => ⟨hacc, hhigh⟩⟩

theorem card_samples : (Finset.univ : Finset Sample).card = 2 ^ 64 := by
  have hall := card_samples_Ico (fun _ => True) le_rfl fun x => iff_of_true trivial ⟨Nat.zero_le _, x.isLt⟩
  rwa [Finset.filter_true, Nat.sub_zero] at hall

/-- Settles O31: the samples not accepted are what is left of `2^64` by `2^64 div b` for each result. -/
theorem rejectedSamplesCounted : Obligations.RejectedSamplesCounted := by
  intro b hb hlt
  refine ⟨?_, threshold_lt_half hb hlt⟩
  have haccepted : (Finset.univ.filter fun x : Sample => accepts b x = true).card = b * (2 ^ 64 / b) :=
    card_of_card_highOf hb _ fun v hv => acceptedSamplesAreUniform b v hb hlt hv
  have htotal := Finset.card_filter_add_card_filter_not (s := (Finset.univ : Finset Sample)) fun x => accepts b x = true
  have hdiv : 2 ^ 64 % b + b * (2 ^ 64 / b) = 2 ^ 64 := Nat.mod_add_div _ _
  simp only [Bool.not_eq_true, card_samples, haccepted] at htotal
  omega

/-- Settles O32: a window of one bound holds one sample of each high half. -/
theorem slowPathEnteredByBoundSamples : Obligations.SlowPathEnteredByBoundSamples := by
  intro b hb hlt
  have hone : ∀ v < b, (Finset.univ.filter fun x : Sample => lowOf b x < b ∧ highOf b x = v).card = 1 := by
    intro v hv
    rw [← card_low_window (low := 0) (q := 1) hv (by omega)]
    refine congrArg Finset.card (Finset.filter_congr fun x _ => ?_)
    rw [Nat.zero_add, Nat.mul_one]
    exact ⟨fun ⟨hlow, hhigh⟩ => ⟨hhigh, Nat.zero_le _, hlow⟩, fun ⟨hhigh, _, hlow⟩ => ⟨hlow, hhigh⟩⟩
  rw [card_of_card_highOf hb _ hone, Nat.mul_one]

end Sys2Proof.Machine
end

section
/-! Operations that draw no sample (spec/20_memory.md R57, spec/30_encoding.md R78): one command transfer, one response
transfer; and an error whose response the host leaves (spec/42_rejection_sampler.md R160). -/

namespace Sys2Proof.Machine

variable {s t u : State} {i : Instr} {e : Edge} {rest : List Edge}

/-- The edge at which a unit in `Idle` is offered an instruction's word. -/
theorem step_offerCommand (hst : s.st = .idle) (hin : s.inputs = Edge.offerCommand (encode i) :: rest) :
    step s = exec i (s.atTransfer rest) := by
  rw [step_command hin (cmdTransfer_some.2 ⟨rfl, .inr rfl, hst, rfl⟩), decode_encode]

/-- `w` is the response to an instruction that draws nothing: the status of its cause for the errors, `OK` and the result
for the others. -/
def AnswersDrawless (i : Instr) (w : ResponseWord) : Prop :=
  (i = .gen 0 ∨ i = .thresh 0 → statusOf w = 1) ∧ (i = .illegal → statusOf w = 2) ∧
    (∀ x y, i = .mulw x y → statusOf w = 0 ∧ (r0Of w).toNat = x.toNat * y.toNat % 2 ^ 64) ∧
    ∀ b, i = .thresh b → b ≠ 0 → statusOf w = 0 ∧ (r0Of w).toNat = 2 ^ 64 % b.toNat

/-- Every end of `accept` but the start of a `GEN` has a response on offer. -/
theorem acceptStep_answers (hdrawless : ∀ b, b ≠ 0 → i ≠ .gen b) (h : AcceptStep s i t) :
    (t.st = .done ∨ t.st = .failed) ∧ AnswersDrawless i t.rsp := by
  cases h with
  | gen b hb => exact absurd rfl (hdrawless b hb)
  | genZero =>
    exact ⟨.inr rfl, fun _ => statusOf_response _ _ _, nofun, nofun, nofun⟩
  | mulw x y =>
    refine ⟨.inl rfl, nofun, nofun, ?_, nofun⟩
    rintro _ _ ⟨⟩
    exact ⟨statusOf_response _ _ _, by rw [State.finish_rsp, r0Of_response, wmul_low_toNat]⟩
  | thresh b hb =>
    refine ⟨.inl rfl, ?_, nofun, nofun, ?_⟩
    · rintro (⟨⟨⟩⟩ | ⟨⟨⟩⟩)
      exact absurd rfl hb
    · rintro _ ⟨⟩ _
      exact ⟨statusOf_response _ _ _, by rw [State.finish_rsp, r0Of_response, thr_toNat hb]⟩
  | threshZero =>
    refine ⟨.inr rfl, fun _ => statusOf_response _ _ _, nofun, nofun, ?_⟩
    rintro _ ⟨⟩ hb
    exact absurd rfl hb
  | illegal => exact ⟨.inr rfl, nofun, fun _ => statusOf_response _ _ _, nofun, nofun⟩

/-- An `accept` step uses up no edge, lowers or raises no output and hands no response over. -/
theorem acceptStep_world (h : AcceptStep s i t) :
    t.inputs = s.inputs ∧ t.raised = s.raised ∧ t.received = s.received := by
  cases h <;> exact ⟨rfl, rfl, rfl⟩

/-- Settles O41: the command's edge ends in `Done` or `Failed`, and the next edge takes the response. -/
theorem drawlessOperationGivesOneResponse : Obligations.DrawlessOperationGivesOneResponse := by
  intro s i rest hst hdrawless hin
  obtain ⟨t, hexec, haccept⟩ := exists_acceptStep (s := s.atTransfer (Edge.takeResponse :: rest)) i hst
  obtain ⟨hend, hanswer⟩ := acceptStep_answers hdrawless haccept
  obtain ⟨hinputs, _, hreceived⟩ := acceptStep_world haccept
  have hrun : Host.Core.run Sys2Proof.core 2 s = .next (t.atTransfer rest).respond :=
    (run_succ 1 ((step_offerCommand hst hin).trans hexec)).trans (run_succ 0 (step_takeResponse hend hinputs))
  exact ⟨(t.atTransfer rest).respond, t.rsp, hrun, rfl, rfl, congrArg (· ++ [t.rsp]) hreceived, hanswer⟩

/-- No reset and no transfer at the edge. -/
structure State.NoTransfer (s : State) (e : Edge) : Prop where
  rst : e.rst = false
  cmd : s.cmdTransfer e = none
  rnd : s.rndTransfer e = none
  rsp : s.rspTransfer e = false

theorem sameUnit_trans (hst : s.sameUnit t) (htu : t.sameUnit u) : s.sameUnit u := by
  obtain ⟨h1, h2, h3, h4, h5, h6, h7, h8⟩ := hst
  obtain ⟨k1, k2, k3, k4, k5, k6, k7, k8⟩ := htu
  exact ⟨h1.trans k1, h2.trans k2, h3.trans k3, h4.trans k4, h5.trans k5, h6.trans k6, h7.trans k7, h8.trans k8⟩

theorem sameUnit_symm (h : s.sameUnit t) : t.sameUnit s := by
  obtain ⟨h1, h2, h3, h4, h5, h6, h7, h8⟩ := h
  exact ⟨h1.symm, h2.symm, h3.symm, h4.symm, h5.symm, h6.symm, h7.symm, h8.symm⟩

theorem sameUnit_dropEdge (s : State) (rest : List Edge) : s.sameUnit (s.dropEdge rest) :=
  ⟨rfl, rfl, rfl, rfl, rfl, rfl, rfl, rfl⟩

theorem step_of_noTransfer (hin : s.inputs = e :: rest) (h : s.NoTransfer e) :
    step s = .next ((s.dropEdge rest).waitEdge e) :=
  step_wait hin h.rst h.cmd h.rnd h.rsp

theorem rspTransfer_of_not_ready (h : e.rspReady = false) : s.rspTransfer e = false := by
  simp [State.rspTransfer, h]

theorem noTransfer_of_failed (hst : s.st = .failed) (hr : e.rst = false) (hready : e.rspReady = false) :
    s.NoTransfer e :=
  ⟨hr, cmdTransfer_of_ne_idle (by simp [hst]) e, rndTransfer_of_ne_sampling (by simp [hst]) e,
    rspTransfer_of_not_ready hready⟩

/-- An error stays as it is over any number of edges at which the host leaves the response. -/
theorem run_failed_sameUnit (k : Nat) (es : List Edge) (s : State) (hst : s.st = .failed) (hin : s.inputs = es)
    (hes : ∀ f ∈ es, f.rst = false ∧ f.rspReady = false) (hk : k ≤ es.length) :
    ∃ t, Host.Core.run Sys2Proof.core k s = .next t ∧ s.sameUnit t := by
  induction k generalizing es s with
  | zero => exact ⟨s, run_zero s, rfl, rfl, rfl, rfl, rfl, rfl, rfl, rfl⟩
  | succ k ih =>
    cases es with
    | nil => exact absurd hk (Nat.not_succ_le_zero k)
    | cons f es =>
      obtain ⟨⟨hr, hready⟩, hes'⟩ := List.forall_mem_cons.1 hes
      have hstep := step_of_noTransfer hin (noTransfer_of_failed hst hr hready)
      obtain ⟨t, hrun, hsame⟩ := ih es ((s.dropEdge es).waitEdge f) hst rfl hes' (Nat.le_of_succ_le_succ hk)
      exact ⟨t, (run_succ k hstep).trans hrun, sameUnit_trans (sameUnit_wait s es f) hsame⟩

/-- Settles O40: the command raises its error, which stays as it is. -/
theorem zeroBoundDrawsNothing : Obligations.ZeroBoundDrawsNothing := by
  intro s e es w hin hw hdec hes k hk
  have hidle : (s.atTransfer es).st = .idle := st_of_cmdTransfer (s := s) hw
  have hstep : step s = .next ((s.atTransfer es).raiseError .invalidBound) := by
    rw [step_command hin hw, hdec, exec_gen_zero hidle]
  obtain ⟨t, hrun, hst, hbound, hhi, hlo, hthr, hthrv, hrsp, hrec⟩ :=
    run_failed_sameUnit k es ((s.atTransfer es).raiseError .invalidBound) rfl rfl hes hk
  refine ⟨t, ?run, hst.symm, ?status, fun f => ⟨?rnd, ?cmd⟩, hbound.symm, hhi.symm, hlo.symm, hthr.symm, hthrv.symm,
    hrec.symm⟩
  case run => rw [Nat.add_comm, run_succ k hstep, hrun]
  case status => exact hrsp ▸ (raiseError_rsp_fields _ .invalidBound).1
  case rnd => exact rndTransfer_of_ne_sampling (by simp [← hst]) f
  case cmd => exact cmdTransfer_of_ne_idle (by simp [← hst]) f

end Sys2Proof.Machine
end

section
/-! Two units at the same offers. A relation between units that has them in the same control state, has them agree on the
registers a draw reads, and is kept by the named operations, is kept by every step, whatever `raised` and `inputs` hold. -/

namespace Sys2Proof.Machine

variable {s t s' t' u : State} {R : State → State → Prop} {e : Edge} {late : Bool} {rest slow : List Edge}

/-- `R` relates units that behave alike, operation by operation. -/
structure Simulation (R : State → State → Prop) : Prop where
  st : ∀ {s t}, R s t → s.st = t.st
  draws : ∀ {s t}, R s t → s.st = .sampling →
    s.bound = t.bound ∧ s.thrv = t.thrv ∧ (s.thrv = true → s.thr = t.thr)
  /-- `raised` and `inputs` take no part. -/
  retime : ∀ {s t s' t'}, R s t → s.sameUnit s' → t.sameUnit t' → R s' t'
  resetEvent : ∀ {s t}, R s t → R s.resetEvent t.resetEvent
  startSampling : ∀ {s t} (b), R s t → R (s.startSampling b) (t.startSampling b)
  setProduct : ∀ {s t} (p), R s t → s.st = .sampling → R (s.setProduct p) (t.setProduct p)
  setThreshold : ∀ {s t} (w), R s t → s.st = .sampling → R (s.setThreshold w) (t.setThreshold w)
  finish : ∀ {s t} (r1 r0), R s t → R (s.finish r1 r0) (t.finish r1 r0)
  raiseError : ∀ {s t} (c), R s t → R (s.raiseError c) (t.raiseError c)
  respond : ∀ {s t}, R s t → s.st = .done ∨ s.st = .failed → R s.respond t.respond

namespace Simulation

/-- Related units in `Idle` end the `accept` step of an instruction related. -/
theorem acceptStep {i : Instr} (sim : Simulation R) (h : R s t) (hst : s.st = .idle) (haccept : AcceptStep s i s') :
    ∃ t', exec i t = .next t' ∧ AcceptStep t i t' ∧ R s' t' := by
  have ht : t.st = .idle := (sim.st h).symm.trans hst
  cases haccept with
  | gen b hb => exact ⟨_, exec_gen_nonzero ht hb, .gen b hb, sim.startSampling b h⟩
  | genZero => exact ⟨_, exec_gen_zero ht, .genZero, sim.raiseError _ h⟩
  | mulw x y => exact ⟨_, exec_mulw ht x y, .mulw x y, sim.finish _ _ h⟩
  | thresh b hb => exact ⟨_, exec_thresh_nonzero ht hb, .thresh b hb, sim.finish _ _ h⟩
  | threshZero => exact ⟨_, exec_thresh_zero ht, .threshZero, sim.raiseError _ h⟩
  | illegal => exact ⟨_, exec_illegal ht, .illegal, sim.raiseError _ h⟩

/-- Related units in `Sampling` end the draw of one sample related: the tests read registers they agree on. -/
theorem drawStep {x : Sample} (sim : Simulation R) (h : R s t) (hst : s.st = .sampling) (hdraw : DrawStep s x s') :
    R s' (draw x t) := by
  obtain ⟨hbound, hthrv, hthr⟩ := sim.draws h hst
  have hproduct := sim.setProduct (wmul x s.bound) h hst
  have hthreshold := sim.setThreshold (thr s.bound) hproduct hst
  cases hdraw with
  | fast hv hlow =>
    rw [hbound] at hlow hproduct ⊢
    exact draw_first_fast (hthrv ▸ hv) hlow ▸ sim.finish _ _ hproduct
  | slowAccept hv hlow hacc =>
    rw [hbound] at hlow hacc hthreshold ⊢
    exact draw_first_slow_accept (hthrv ▸ hv) hlow hacc ▸ sim.finish _ _ hthreshold
  | slowReject hv hlow hrej =>
    rw [hbound] at hlow hrej hthreshold ⊢
    exact draw_first_slow_reject (hthrv ▸ hv) hlow hrej ▸ hthreshold
  | laterAccept hv hacc =>
    rw [hbound, hthr hv] at hacc
    rw [hbound] at hproduct ⊢
    exact draw_later_accept (hthrv ▸ hv) hacc ▸ sim.finish _ _ hproduct
  | laterReject hv hrej =>
    rw [hbound, hthr hv] at hrej
    rw [hbound] at hproduct ⊢
    exact draw_later_reject (hthrv ▸ hv) hrej ▸ hproduct

end Simulation

theorem drawStep_raised {x : Sample} (h : DrawStep s x t) : t.raised = s.raised := by
  cases h <;> rfl

theorem drawStep_inputs {x : Sample} (h : DrawStep s x t) : t.inputs = s.inputs := by
  cases h <;> rfl

/-- Every step at an edge uses the edge up. -/
theorem edgeStep_inputs (h : EdgeStep s e rest t) : t.inputs = rest := by
  cases h with
  | reset | response | wait => rfl
  | command _ _ _ _ _ haccept => exact (acceptStep_world haccept).1
  | sample _ _ _ hdraw => exact drawStep_inputs hdraw

/-- The offers of an edge, at an edge that stalls as `late` says. -/
def Edge.stalling (e : Edge) (late : Bool) : Edge := { e with stall := late }

/-- Where the outputs of two units in one control state agree, their ports transfer the same. -/
theorem transfers_eq (hst : s.st = t.st) (hup : s.outputUp e = t.outputUp (e.stalling late)) :
    t.cmdTransfer (e.stalling late) = s.cmdTransfer e ∧ t.rndTransfer (e.stalling late) = s.rndTransfer e ∧
      t.rspTransfer (e.stalling late) = s.rspTransfer e := by
  have hcmd : t.cmdReady (e.stalling late) = s.cmdReady e := by rw [State.cmdReady, State.cmdReady, hst, hup]
  have hrnd : t.rndReady (e.stalling late) = s.rndReady e := by rw [State.rndReady, State.rndReady, hst, hup]
  have hrsp : t.rspValid (e.stalling late) = s.rspValid e := by rw [State.rspValid, State.rspValid, hst, hup]
  exact ⟨by rw [State.cmdTransfer, hcmd]; rfl, by rw [State.rndTransfer, hrnd]; rfl,
    by rw [State.rspTransfer, hrsp]; rfl⟩

/-- One step of two related units at the same offers, their outputs alike. -/
theorem Simulation.step (sim : Simulation R) (h : R s t) (hs : s.inputs = e :: rest)
    (ht : t.inputs = e.stalling late :: slow) (hup : s.outputUp e = t.outputUp (e.stalling late)) :
    ∃ s' t', step s = .next s' ∧ step t = .next t' ∧ R s' t' ∧ s'.raised = t'.raised := by
  obtain ⟨s', hs', hedge⟩ := exists_edgeStep hs
  obtain ⟨hcmd, hrnd, hrsp⟩ := transfers_eq (sim.st h) hup
  have hat : R (s.atTransfer rest) (t.atTransfer slow) :=
    sim.retime h (sameUnit_atTransfer s rest) (sameUnit_atTransfer t slow)
  cases hedge with
  | reset hr =>
    have hdrop : R (s.dropEdge rest) (t.dropEdge slow) :=
      sim.retime h (sameUnit_dropEdge s rest) (sameUnit_dropEdge t slow)
    exact ⟨_, _, hs', step_reset ht hr, sim.resetEvent hdrop, rfl⟩
  | command w i _ hw hi haccept =>
    have hst : (s.atTransfer rest).st = .idle := st_of_cmdTransfer (s := s) hw
    obtain ⟨t', hexec, haccept', hR⟩ := sim.acceptStep hat hst haccept
    have hstep : Machine.step t = .next t' := by rw [step_command ht (hcmd.trans hw), hi, hexec]
    exact ⟨s', t', hs', hstep, hR, (acceptStep_world haccept).2.1.trans (acceptStep_world haccept').2.1.symm⟩
  | sample x _ hx hdraw =>
    have hst : (s.atTransfer rest).st = .sampling := st_of_rndTransfer (s := s) hx
    have hraised : s'.raised = (draw x (t.atTransfer slow)).raised := by rw [drawStep_raised hdraw, draw_raised]; rfl
    exact ⟨s', _, hs', step_sample ht (hrnd.trans hx) rfl, sim.drawStep hat hst hdraw, hraised⟩
  | response hp =>
    have hst : (s.atTransfer rest).st = .done ∨ (s.atTransfer rest).st = .failed := st_of_rspTransfer (s := s) hp
    exact ⟨_, _, hs', step_response ht (hrsp.trans hp), sim.respond hat hst, rfl⟩
  | wait hr hc hx hp =>
    exact ⟨_, _, hs', step_wait ht hr (hcmd.trans hc) (hrnd.trans hx) (hrsp.trans hp),
      sim.retime h (sameUnit_wait s rest e) (sameUnit_wait t slow _), hup⟩

end Sys2Proof.Machine
end

section
/-! Nothing an earlier operation left is observable (spec/10_state.md R32, spec/42_rejection_sampler.md R158): the registers
that the control state does not use take no part. -/

namespace Sys2Proof.Machine

variable {s t : State}

/-- The same to the host but for what is to come, and the same in the registers that the control state makes use of. -/
structure State.Alike (s t : State) : Prop where
  st : s.st = t.st
  received : s.received = t.received
  sampling : s.st = .sampling → s.bound = t.bound ∧ s.thrv = t.thrv ∧ (s.thrv = true → s.thr = t.thr)
  response : s.st = .done ∨ s.st = .failed → s.rsp = t.rsp

/-- In `Idle` no register is in use. -/
theorem alike_of_idle (hst : s.st = .idle) (heq : s.st = t.st) (hrec : s.received = t.received) : s.Alike t where
  st := heq
  received := hrec
  sampling h := nomatch hst.symm.trans h
  response h := by rcases h with h | h <;> exact nomatch hst.symm.trans h

theorem simulation_alike : Simulation State.Alike where
  st h := h.st
  draws h := h.sampling
  retime := by
    rintro s t s' t' h ⟨hst, hbound, _, _, hthr, hthrv, hrsp, hrec⟩ ⟨kst, kbound, _, _, kthr, kthrv, krsp, krec⟩
    constructor
    · exact hst ▸ kst ▸ h.st
    · exact hrec ▸ krec ▸ h.received
    · exact hst ▸ hbound ▸ kbound ▸ hthrv ▸ kthrv ▸ hthr ▸ kthr ▸ h.sampling
    · exact hst ▸ hrsp ▸ krsp ▸ h.response
  resetEvent h := alike_of_idle rfl rfl h.received
  startSampling b h := ⟨rfl, h.received, fun _ => ⟨rfl, rfl, nofun⟩, nofun⟩
  setProduct p h _ := ⟨h.st, h.received, h.sampling, h.response⟩
  setThreshold w h hst := ⟨h.st, h.received, fun _ => ⟨(h.sampling hst).1, rfl, fun _ => rfl⟩, h.response⟩
  finish r1 r0 h := ⟨rfl, h.received, nofun, fun _ => rfl⟩
  raiseError c h := ⟨rfl, h.received, nofun, fun _ => rfl⟩
  respond h hst := alike_of_idle rfl rfl (congrArg₂ (· ++ [·]) h.received (h.response hst))

/-- Units that are alike and have the same output and edges to come stay so. -/
theorem run_alike (k : Nat) (s t : State) (h : s.Alike t) (hraised : s.raised = t.raised) (hin : s.inputs = t.inputs) :
    ∃ s' t', Host.Core.run Sys2Proof.core k s = .next s' ∧ Host.Core.run Sys2Proof.core k t = .next t' ∧
      s'.samePorts t' := by
  induction k generalizing s t with
  | zero => exact ⟨s, t, rfl, rfl, h.st, hraised, hin, h.received⟩
  | succ k ih =>
    cases hs : s.inputs with
    | nil =>
      obtain ⟨s', t', hrs, hrt, hports⟩ := ih s t h hraised hin
      exact ⟨s', t', (run_succ k (step_nil hs)).trans hrs, (run_succ k (step_nil (hin ▸ hs))).trans hrt, hports⟩
    | cons e rest =>
      have ht : t.inputs = e :: rest := hin ▸ hs
      have hup : s.outputUp e = t.outputUp e := by simp only [State.outputUp, hraised]
      obtain ⟨s', t', hs', ht', h', hraised'⟩ := simulation_alike.step (late := e.stall) h hs ht hup
      have hin' : s'.inputs = t'.inputs :=
        (edgeStep_inputs (edgeStep_of_step hs hs')).trans (edgeStep_inputs (edgeStep_of_step ht ht')).symm
      obtain ⟨s'', t'', hrs, hrt, hports⟩ := ih s' t' h' hraised' hin'
      exact ⟨s'', t'', (run_succ k hs').trans hrs, (run_succ k ht').trans hrt, hports⟩

/-- Settles O38: two units in `Idle` are alike, whatever their registers. -/
theorem operationsAreStateless : Obligations.OperationsAreStateless := by
  rintro s t k hidle ⟨hst, hraised, hin, hrec⟩
  exact run_alike k s t (alike_of_idle hidle hst hrec) hraised hin

end Sys2Proof.Machine
end

section
/-! Latency and waiting (spec/70_reset_and_hazards.md R214, R222): an edge that serves no port changes no register, and an
edge that does is the same step whenever it comes. -/

namespace Sys2Proof.Machine

variable {s t : State} {e : Edge} {rest : List Edge}

theorem simulation_sameUnit : Simulation State.sameUnit where
  st h := h.1
  draws := fun ⟨_, hbound, _, _, hthr, hthrv, _⟩ _ => ⟨hbound, hthrv, fun _ => hthr⟩
  retime h hs ht := sameUnit_trans (sameUnit_symm hs) (sameUnit_trans h ht)
  resetEvent := fun ⟨_, hbound, hhi, hlo, hthr, _, hrsp, hrec⟩ => ⟨rfl, hbound, hhi, hlo, hthr, rfl, hrsp, hrec⟩
  startSampling _ := fun ⟨_, _, hhi, hlo, hthr, _, hrsp, hrec⟩ => ⟨rfl, rfl, hhi, hlo, hthr, rfl, hrsp, hrec⟩
  setProduct _ := fun ⟨hst, hbound, _, _, hthr, hthrv, hrsp, hrec⟩ _ =>
    ⟨hst, hbound, rfl, rfl, hthr, hthrv, hrsp, hrec⟩
  setThreshold _ := fun ⟨hst, hbound, hhi, hlo, _, _, hrsp, hrec⟩ _ => ⟨hst, hbound, hhi, hlo, rfl, rfl, hrsp, hrec⟩
  finish _ _ := fun ⟨_, hbound, hhi, hlo, hthr, hthrv, _, hrec⟩ => ⟨rfl, hbound, hhi, hlo, hthr, hthrv, rfl, hrec⟩
  raiseError _ := fun ⟨_, hbound, hhi, hlo, hthr, hthrv, _, hrec⟩ => ⟨rfl, hbound, hhi, hlo, hthr, hthrv, rfl, hrec⟩
  respond := fun ⟨_, hbound, hhi, hlo, hthr, hthrv, hrsp, hrec⟩ _ =>
    ⟨rfl, hbound, hhi, hlo, hthr, hthrv, hrsp, congrArg₂ (· ++ [·]) hrec hrsp⟩

theorem noTransfer_of_stillComputing (h : s.stillComputing e) : s.NoTransfer e := by
  obtain ⟨hr, hstall, hraised⟩ := h
  have hdown : s.outputUp e = false := by simp [State.outputUp, hstall, hraised]
  obtain ⟨hcmd, hrnd, hrsp⟩ := portSignals_of_output_down hdown
  exact ⟨hr, by simp [State.cmdTransfer, hcmd], by simp [State.rndTransfer, hrnd], by simp [State.rspTransfer, hrsp]⟩

theorem noTransfer_of_notOffered (h : s.notOffered e) : s.NoTransfer e := by
  obtain ⟨hr, hcmd, hrnd, hrsp⟩ := h
  refine ⟨hr, ?cmd, ?rnd, ?rsp⟩
  case cmd =>
    refine Option.eq_none_iff_forall_ne_some.2 fun w hw => ?_
    obtain ⟨_, _, hst, hoffer⟩ := cmdTransfer_some.1 hw
    exact nomatch (hcmd hst).symm.trans hoffer
  case rnd =>
    refine Option.eq_none_iff_forall_ne_some.2 fun x hx => ?_
    obtain ⟨_, _, hst, hoffer⟩ := rndTransfer_some.1 hx
    exact nomatch (hrnd hst).symm.trans hoffer
  case rsp =>
    refine Bool.eq_false_iff.2 fun hp => ?_
    obtain ⟨_, _, hst, hoffer⟩ := rspTransfer_true.1 hp
    exact nomatch (hrsp hst).symm.trans hoffer

/-- An edge without transfer is used up and leaves the unit as it is. -/
theorem sameUnit_of_noTransfer (hin : s.inputs = e :: rest) (h : s.NoTransfer e) (hstep : step s = .next t) :
    s.sameUnit t ∧ t.inputs = rest := by
  cases (step_of_noTransfer hin h).symm.trans hstep
  exact ⟨sameUnit_wait s rest e, rfl⟩

/-- Both scripts run to their ends give the same registers and the same responses. -/
def RunsAlike (s t : State) (fast slow : List Edge) : Prop :=
  ∃ s' t', Host.Core.run Sys2Proof.core fast.length s = .next s' ∧
    Host.Core.run Sys2Proof.core slow.length t = .next t' ∧ s'.sameUnit t'

/-- An edge without transfer, put before a stretched script, changes nothing of what it does. -/
theorem runsAlike_of_noTransfer {t' : State} {fast slow : List Edge} (hsame : s.sameUnit t) (hin : t.inputs = e :: slow)
    (h : t.NoTransfer e) (hstep : step t = .next t')
    (ih : ∀ slow', s.sameUnit t' → t'.inputs = slow' → RunsAlike s t' fast slow') : RunsAlike s t fast (e :: slow) := by
  obtain ⟨hkept, hrest⟩ := sameUnit_of_noTransfer hin h hstep
  obtain ⟨s'', t'', hrs, hrt, hR⟩ := ih slow (sameUnit_trans hsame hkept) hrest
  exact ⟨s'', t'', hrs, (run_succ slow.length hstep).trans hrt, hR⟩

theorem runsAlike_of_stretched {fast : List Edge} (h : Stretched t fast) (s : State) (slow : List Edge)
    (hsame : s.sameUnit t) (hs : s.inputs = fast) (ht : t.inputs = slow) : RunsAlike s t fast slow := by
  induction h generalizing s slow with
  | nil t hi =>
    cases hi.symm.trans ht
    exact ⟨s, t, rfl, rfl, hsame⟩
  | keep t t' e late fast slow' hi he hu hstep _ ih =>
    cases hi.symm.trans ht
    have hup : s.outputUp e = t.outputUp (e.stalling late) := by
      rcases hu with hu | hu | hu <;> simp [State.outputUp, Edge.stalling, he, hu]
    obtain ⟨s', t'', hs', ht'', hsame', _⟩ := simulation_sameUnit.step hsame hs hi hup
    cases hstep.symm.trans ht''
    obtain ⟨s'', t'', hrs, hrt, hR⟩ := ih s' slow' hsame' (edgeStep_inputs (edgeStep_of_step hs hs'))
      (edgeStep_inputs (edgeStep_of_step hi hstep))
    exact ⟨s'', t'', (run_succ fast.length hs').trans hrs, (run_succ slow'.length hstep).trans hrt, hR⟩
  | hold t t' e fast slow' hi he hstep _ ih =>
    cases hi.symm.trans ht
    exact runsAlike_of_noTransfer hsame hi (noTransfer_of_stillComputing he) hstep fun _ h => ih s _ h hs
  | gap t t' e fast slow' hi he hstep _ ih =>
    cases hi.symm.trans ht
    exact runsAlike_of_noTransfer hsame hi (noTransfer_of_notOffered he) hstep fun _ h => ih s _ h hs

/-- Every script is a script without stalls, stretched: an edge that stalls before the output is up is held, every other
is kept. -/
theorem exists_stretched (es : List Edge) (t : State) (hin : t.inputs = es) :
    ∃ fast, Stretched t fast ∧ ∀ e ∈ fast, e.stall = false := by
  induction es generalizing t with
  | nil => exact ⟨[], .nil t hin, nofun⟩
  | cons e rest ih =>
    obtain ⟨t', hstep, hedge⟩ := exists_edgeStep hin
    obtain ⟨fast, hstretched, hfast⟩ := ih t' (edgeStep_inputs hedge)
    by_cases hu : e.rst = true ∨ t.raised = true ∨ e.stall = false
    · exact ⟨e.stalling false :: fast, .keep t t' (e.stalling false) e.stall fast rest hin rfl hu hstep hstretched,
        List.forall_mem_cons.2 ⟨rfl, hfast⟩⟩
    · have hheld : t.stillComputing e := by simpa [State.stillComputing, not_or, and_comm] using hu
      exact ⟨fast, .hold t t' e fast rest hin hheld hstep hstretched, hfast⟩

/-- Settles O39: an edge put between leaves the unit as it is, and a kept edge is one step of two units that are the same. -/
theorem latencyChangesNoResult : Obligations.LatencyChangesNoResult :=
  ⟨fun s _ _ slow h hsame hs ht => runsAlike_of_stretched h s slow hsame hs ht, fun t => exists_stretched t.inputs t rfl⟩

end Sys2Proof.Machine
end
